-- ==== Sys2Proof/Word.lean ====
section
/-! DEFINITION. The plain data of the block: bytes, 32-bit operands, line states, field layouts. -/

namespace Sys2Proof

/-- One byte of a buffer or of a byte string (R12, R17). -/
abbrev Byte := BitVec 8

/-- An operand or result register: 32 bits, unsigned (R9 `ARG_WIDTH`, `RES_WIDTH`; R82). -/
abbrev Word32 := BitVec 32

/-- A line state at one sample instant: HIGH is idle, LOW is asserted (R20, R201). -/
inductive Sample where
  /-- Asserted, active; stored as bit 0 (R15). -/
  | low
  /-- Idle, inactive; stored as bit 1 (R15). -/
  | high
deriving DecidableEq, Repr

/-- `FieldLayout(o, L)`: a field of `length` bits at message bit `offset` (R19, R120). -/
structure FieldLayout where
  offset : Nat
  length : Nat
deriving DecidableEq, Repr

end Sys2Proof
end

