-- ==== Sys2Proof/Machine/Layout.lean ====
section
/-! DEFINITION. The constants of the block (R11, R47): the named field layouts, the derived lengths, the
encodings of one-bit values, and the timing constants in samples. -/

namespace Sys2Proof.Machine

/-! The named field layouts of R92: contiguous from message bit 0 in the order of R89 (R90). -/

/-- Broadcast flag; it has neither parity nor acknowledgement (R96). -/
def BCAST : FieldLayout := ⟨0, 1⟩
/-- Master address; parity, no acknowledgement (R96). -/
def MASTER : FieldLayout := ⟨1, 12⟩
def MASTER_P : FieldLayout := ⟨13, 1⟩
/-- Slave address. -/
def SLAVE : FieldLayout := ⟨14, 12⟩
def SLAVE_P : FieldLayout := ⟨26, 1⟩
def SLAVE_A : FieldLayout := ⟨27, 1⟩
/-- Control. -/
def CTRL : FieldLayout := ⟨28, 4⟩
def CTRL_P : FieldLayout := ⟨32, 1⟩
def CTRL_A : FieldLayout := ⟨33, 1⟩
/-- Data length. -/
def LEN : FieldLayout := ⟨34, 8⟩
def LEN_P : FieldLayout := ⟨42, 1⟩
def LEN_A : FieldLayout := ⟨43, 1⟩

/-- `HEADER_BITS`: the bit offset of the first data byte (R93). -/
def headerBits : Nat := 44
/-- `DATA_STRIDE`: bits per data unit (R91). -/
def dataStride : Nat := 10

/-- `dataFieldLayout(i)` (R94). -/
def DATA (i : Nat) : FieldLayout := ⟨headerBits + dataStride * i, 8⟩
def DATA_P (i : Nat) : FieldLayout := ⟨headerBits + dataStride * i + 8, 1⟩
def DATA_A (i : Nat) : FieldLayout := ⟨headerBits + dataStride * i + 9, 1⟩

/-- `MAX_DATA` (R9). -/
def maxData : Nat := 64
/-- `FIELD_MAX_LEN` (R9). -/
def fieldMaxLen : Nat := 12
/-- `bitLengthOfMessage(len)` (R94). -/
def bitLengthOfMessage (len : Nat) : Nat := headerBits + dataStride * len
/-- `ceil(n / 8)`. -/
def ceilDiv8 (n : Nat) : Nat := (n + 7) / 8
/-- `byteLengthOfMessage(len)` (R94). -/
def byteLengthOfMessage (len : Nat) : Nat := ceilDiv8 (bitLengthOfMessage len)
/-- `MAX_MSG_BITS` = 684 (R94). -/
def maxMsgBits : Nat := bitLengthOfMessage maxData
/-- `MAX_MSG_BYTES` = 86, the end of the logical region (R31, R94). -/
def maxMsgBytes : Nat := byteLengthOfMessage maxData

/-- A layout is legal when its width is 1 to 12 (R120). -/
def isLegalLayout (l : FieldLayout) : Bool := 1 ≤ l.length && l.length ≤ fieldMaxLen

/-! One-bit values (R95) and construction defaults (R9). -/

def BROADCAST : Word32 := 0
def UNICAST : Word32 := 1
def ACK : Word32 := 0
/-- `ACK_DEFAULT`: the acknowledgement the encode path writes (R9, R283). -/
def NAK : Word32 := 1
/-- `CONTROL_TOKEN_DEFAULT`: the control of every token-built message (R9, R145). -/
def controlTokenDefault : Word32 := 0xF

/-! Timing constants in samples (R190). -/

/-- Start condition. -/
def tStartBit : Nat := 170
/-- Total length of every bit. -/
def tBit : Nat := 41
/-- Synchronisation period; active LOW of a 1 bit. -/
def tBit1 : Nat := 20
/-- Active LOW of a 0 bit. -/
def tBit0 : Nat := 33
/-- Trailing idle. -/
def tTxWait : Nat := 88
/-- `GUARD_SAMPLES`, at each end (R221). -/
def guardSamples : Nat := 10000
/-- Twice `T_BitMeasure`, exactly: the midpoint 26.5 of `tBit1` and `tBit0` is not an integer, its
rounding is not given and no rule uses it (R193, U1; DEDUCED, entry 12). -/
def tBitMeasureDoubled : Nat := tBit1 + tBit0

end Sys2Proof.Machine
end

