-- ==== Sys2Proof/Machine/Text.lean ====
section
/-! DEFINITION. The text formats: lexing of token strings (R97, R99) and the digit forms of the display
string (R100). Bytes are ASCII codes. -/

namespace Sys2Proof.Machine

/-- Whitespace of a token string: 0x20 and 0x09 to 0x0D (R97). -/
def isWhitespace (c : Byte) : Bool := c == 0x20 || (0x09 ≤ c && c ≤ 0x0D)

/-- Remove every colon byte 0x3A, before splitting (R97). -/
def stripColons (text : List Byte) : List Byte := text.filter (· != 0x3A)

/-- `tokensFrom cur text`: the tokens of `text` when `cur` holds, in reverse, the bytes of a token that
has already begun. -/
def tokensFrom : List Byte → List Byte → List (List Byte)
  | [], [] => []
  | cur, [] => [cur.reverse]
  | cur, c :: rest =>
    if isWhitespace c then
      if cur.isEmpty then tokensFrom [] rest else cur.reverse :: tokensFrom [] rest
    else tokensFrom (c :: cur) rest

/-- The tokens: the maximal runs of bytes that are not whitespace (R97). -/
def tokens (text : List Byte) : List (List Byte) := tokensFrom [] text

/-- The value of a hexadecimal digit, either case (R99). -/
def hexDigit? (c : Byte) : Option Nat :=
  if 0x30 ≤ c && c ≤ 0x39 then some (c.toNat - 0x30)
  else if 0x61 ≤ c && c ≤ 0x66 then some (c.toNat - 0x57)
  else if 0x41 ≤ c && c ≤ 0x46 then some (c.toNat - 0x37)
  else none

/-- A hexadecimal token: one or more hexadecimal digits and nothing else (R99). -/
def isHex (t : List Byte) : Bool := !t.isEmpty && t.all fun c => (hexDigit? c).isSome

/-- The unsigned value of a hexadecimal token, most significant digit first (R99). -/
def hexValue (t : List Byte) : Nat := t.foldl (fun v c => 16 * v + (hexDigit? c).getD 0) 0

/-- The lowercase ASCII digit of a value below 16 (R100). -/
def hexChar (d : Nat) : Byte := BitVec.ofNat 8 (if d < 10 then 0x30 + d else 0x57 + d)

/-- `hexN`: exactly `n` lowercase hexadecimal digits, zero padded (R100). -/
def hexDigits : Nat → Nat → List Byte
  | 0, _ => []
  | n + 1, v => hexChar (v / 16 ^ n % 16) :: hexDigits n v

/-- `dec2`: decimal, right-aligned in two characters with a leading space (R100). A data length is at
most 64 (R33); from 100 on a third digit appears (entry 10). -/
def decimal2 (v : Nat) : List Byte :=
  if v < 10 then [0x20, hexChar v]
  else if v < 100 then [hexChar (v / 10), hexChar (v % 10)]
  else [hexChar (v / 100 % 10), hexChar (v / 10 % 10), hexChar (v % 10)]

end Sys2Proof.Machine
end

