-- ==== Sys2Proof/Syntax.lean ====
section
/-! DEFINITION. The command set: the transaction as the host presents it, the instruction it names, the
host's events and the names of the status codes. -/

namespace Sys2Proof

/-- A command transaction `(OPC, ARG0, ARG1, ARG2, ARG3, ARG4, IN)`, format CMD8 (R80). -/
structure Command where
  opc : Byte
  arg0 : Word32 := 0
  arg1 : Word32 := 0
  arg2 : Word32 := 0
  arg3 : Word32 := 0
  arg4 : Word32 := 0
  inp : List Byte := []
deriving DecidableEq, Repr

/-- The 14 commands (R83, R103), each with the operands its rule names; the others are ignored (R249). -/
inductive Instr where
  /-- 0x01 FIELD_READ: ARG0 bit offset, ARG1 bit length (R127). -/
  | fieldRead (offset length : Word32)
  /-- 0x02 PARITY: ARG0 the value (R128). -/
  | parity (value : Word32)
  /-- 0x10 BUILD_FIELDS: ARG0 presence mask, ARG1 broadcast, ARG2 master, ARG3 slave, ARG4 control, IN data (R142). -/
  | buildFields (mask bcast master slave control : Word32) (inp : List Byte)
  /-- 0x11 BUILD_TOKENS: IN the token string (R144). -/
  | buildTokens (inp : List Byte)
  /-- 0x12 DECODE_BYTES: IN the raw message bytes (R146). -/
  | decodeBytes (inp : List Byte)
  /-- 0x13 VALIDATE (R148). -/
  | validate
  /-- 0x14 AS_BYTES (R149). -/
  | asBytes
  /-- 0x15 DISPLAY (R150). -/
  | display
  /-- 0x16 DECODE_VIEW (R151). -/
  | decodeView
  /-- 0x20 ENCODE_SIGNAL (R203). -/
  | encodeSignal
  /-- 0x30 BATCH_CLEAR (R210). -/
  | batchClear
  /-- 0x31 BATCH_APPEND: ARG0 timestamp (R211). -/
  | batchAppend (timestamp : Word32)
  /-- 0x32 COMPOSE: ARG0 regularInterval, ARG1 glitchSamples (R224). -/
  | compose (interval glitch : Word32)
  /-- 0x33 PACK_SAMPLES: IN the sample string (R228). -/
  | packSamples (inp : List Byte)
deriving DecidableEq, Repr

/-- What the host can do to the block: assert reset between commands (R270) or issue a command (R80). -/
inductive HostEvent where
  | reset
  | command (c : Command)
deriving DecidableEq, Repr

/-- The twelve errors, in the order of their codes 0x10 to 0x1B (R241). -/
inductive ErrorCode where
  | formatError
  | rangeError
  | decodeError
  | bufferBoundsError
  | layoutError
  | noMessage
  | batchFull
  | emptyBatch
  | offsetOrder
  | overrun
  | capacityError
  | illegalCommand
deriving DecidableEq, Repr

/-- How a command ends: OK, with findings (R246), or with an error (R241). -/
inductive StatusCode where
  | ok
  | validationWarning
  | error (e : ErrorCode)
deriving DecidableEq, Repr

end Sys2Proof
end

