-- ==== Sys2Proof/Machine/Operands.lean ====
section
/-! DEFINITION. The operand forms of the commands: the presence mask of BUILD_FIELDS (R84), the token
string of BUILD_TOKENS (R98), the sample string of PACK_SAMPLES (R102). Each reading makes the checks its
rule lists, in order, and answers the first error (R18, R250). -/

namespace Sys2Proof.Machine

/-- The fields handed to `encodeFields`; each may be absent (R141). -/
structure Supplied where
  bcast : Option Word32 := none
  master : Option Word32 := none
  slave : Option Word32 := none
  control : Option Word32 := none
  data : Option (List Byte) := none
deriving DecidableEq, Repr

/-- A supplied value that fits, or an absent one. -/
def fits (limit : Nat) (v : Option Word32) : Bool := v.all fun x => x.toNat ≤ limit

/-- Every supplied value fits its field (R142): broadcast, master, slave, control, data length. -/
def Supplied.inRange (f : Supplied) : Bool :=
  fits 1 f.bcast && fits 0xFFF f.master && fits 0xFFF f.slave && fits 0xF f.control &&
    f.data.all fun d => d.length ≤ maxData

/-- The fields the presence mask supplies: bit 0 broadcast, 1 master, 2 slave, 3 control, 4 data (R84). -/
def suppliedByMask (mask bcast master slave control : Word32) (inp : List Byte) : Supplied where
  bcast := if mask.getLsbD 0 then some bcast else none
  master := if mask.getLsbD 1 then some master else none
  slave := if mask.getLsbD 2 then some slave else none
  control := if mask.getLsbD 3 then some control else none
  data := if mask.getLsbD 4 then some inp else none

/-- The operands of BUILD_FIELDS: FormatError when a reserved mask bit is set, then RangeError when a
supplied value does not fit (R142). Values of fields not supplied are not checked. -/
def parseFields (mask bcast master slave control : Word32) (inp : List Byte) :
    Except ErrorCode Supplied :=
  if mask >>> 5 ≠ 0 then .error .formatError
  else
    let f := suppliedByMask mask bcast master slave control inp
    if f.inRange then .ok f else .error .rangeError

/-- The broadcast flag a type token stands for: exactly `B` is BROADCAST (R98). -/
def typeToken (t : List Byte) : Word32 := if t = [0x42] then BROADCAST else UNICAST

/-- The operand of BUILD_TOKENS, with the checks of R144 in order: at least 5 tokens, every token from
token 1 hexadecimal, at most 64 data tokens, master, slave, then data tokens in range. Token 0 is the
type, 1 the master, 2 the slave, 3 onward the data; control is always 0xF (R98, R145). -/
def parseTokens (inp : List Byte) : Except ErrorCode Supplied :=
  let tok := tokens (stripColons inp)
  let data := tok.drop 3
  if tok.length < 5 then .error .formatError
  else if ¬ (tok.drop 1).all isHex then .error .formatError
  else if maxData < data.length then .error .rangeError
  else if 0xFFF < hexValue (tok.getD 1 []) then .error .rangeError
  else if 0xFFF < hexValue (tok.getD 2 []) then .error .rangeError
  else if data.any fun t => 0xFF < hexValue t then .error .rangeError
  else .ok
    { bcast := some (typeToken (tok.getD 0 []))
      master := some (BitVec.ofNat 32 (hexValue (tok.getD 1 [])))
      slave := some (BitVec.ofNat 32 (hexValue (tok.getD 2 [])))
      control := some controlTokenDefault
      data := some (data.map fun t => BitVec.ofNat 8 (hexValue t)) }

/-- One byte of a sample string: `'0'` is LOW, `'1'` is HIGH (R102). -/
def sample? (c : Byte) : Option Sample :=
  if c = 0x30 then some .low else if c = 0x31 then some .high else none

/-- The operand of PACK_SAMPLES: FormatError when a byte is neither `'0'` nor `'1'` (R102, R228). -/
def parseSamples : List Byte → Except ErrorCode (List Sample)
  | [] => .ok []
  | c :: rest =>
    match sample? c, parseSamples rest with
    | some x, .ok xs => .ok (x :: xs)
    | _, _ => .error .formatError

end Sys2Proof.Machine
end

