-- ==== Sys2Proof/WellFormed.lean ====
section
/-! DEFINITION. Well-formed commands: those whose operands, taken alone, meet the conditions their rule
lists. No encoding is shut out by this: an ill-formed command still encodes, decodes and runs, and ends
with the error status its rule names (R240, R242). -/

namespace Sys2Proof

/-- Did reading the operand succeed? -/
def accepted {α : Type} : Except ErrorCode α → Bool
  | .ok _ => true
  | .error _ => false

/-- The operand conditions of each command: FIELD_READ's width (R127), BUILD_FIELDS's mask and ranges
(R142), BUILD_TOKENS's grammar and ranges (R144), DECODE_BYTES's length bounds (R146), PACK_SAMPLES's
alphabet (R228). Every other operand may have any value (R82). -/
def Instr.wellFormed : Instr → Bool
  | .fieldRead offset length => Machine.isLegalLayout ⟨offset.toNat, length.toNat⟩
  | .parity _ => true
  | .buildFields mask bcast master slave control inp =>
    accepted (Machine.parseFields mask bcast master slave control inp)
  | .buildTokens inp => accepted (Machine.parseTokens inp)
  | .decodeBytes inp =>
    Machine.byteLengthOfMessage 0 ≤ inp.length && inp.length ≤ Machine.maxMsgBytes
  | .validate => true
  | .asBytes => true
  | .display => true
  | .decodeView => true
  | .encodeSignal => true
  | .batchClear => true
  | .batchAppend _ => true
  | .compose _ _ => true
  | .packSamples inp => accepted (Machine.parseSamples inp)

end Sys2Proof
end

