-- ==== Sys2Proof/Decode.lean ====
section
/-! DEFINITION. Decoding a command transaction to an instruction, total, rejecting by name (R80 to R86);
after it the encoder, the pseudo-commands and the numeric form of a transaction. -/

namespace Sys2Proof

/-- Why a transaction names no instruction. -/
inductive DecodeReject where
  /-- The opcode is none of the 14 of R83; the block answers IllegalCommand (R85, R249). -/
  | illegalCommand (opc : Byte)
deriving DecidableEq, Repr

/-- UNIT, bits 7:4 of the opcode: 0 field unit, 1 message codec, 2 line encoder, 3 timeline composer (R81). -/
def Command.unit (c : Command) : BitVec 4 := c.opc.extractLsb' 4 4

/-- OP, bits 3:0 of the opcode: the operation within the unit (R81). -/
def Command.op (c : Command) : BitVec 4 := c.opc.extractLsb' 0 4

/-- The opcode map (R83). The full opcode byte alone selects the operation (R80, R86); the operands are
taken as supplied (R82), and those the command does not name are dropped (R249). -/
def decode (c : Command) : Except DecodeReject Instr :=
  match c.opc with
  | 0x01#8 => .ok (.fieldRead c.arg0 c.arg1)
  | 0x02#8 => .ok (.parity c.arg0)
  | 0x10#8 => .ok (.buildFields c.arg0 c.arg1 c.arg2 c.arg3 c.arg4 c.inp)
  | 0x11#8 => .ok (.buildTokens c.inp)
  | 0x12#8 => .ok (.decodeBytes c.inp)
  | 0x13#8 => .ok .validate
  | 0x14#8 => .ok .asBytes
  | 0x15#8 => .ok .display
  | 0x16#8 => .ok .decodeView
  | 0x20#8 => .ok .encodeSignal
  | 0x30#8 => .ok .batchClear
  | 0x31#8 => .ok (.batchAppend c.arg0)
  | 0x32#8 => .ok (.compose c.arg0 c.arg1)
  | 0x33#8 => .ok (.packSamples c.inp)
  | opc => .error (.illegalCommand opc)

/-- The transaction of an instruction (R83, R87); operands the command does not name are 0 and IN is
empty, as in the listing convention of R87 (entry 11). -/
def encode : Instr → Command
  | .fieldRead offset length => { opc := 0x01, arg0 := offset, arg1 := length }
  | .parity value => { opc := 0x02, arg0 := value }
  | .buildFields mask bcast master slave control inp =>
    { opc := 0x10, arg0 := mask, arg1 := bcast, arg2 := master, arg3 := slave, arg4 := control, inp := inp }
  | .buildTokens inp => { opc := 0x11, inp := inp }
  | .decodeBytes inp => { opc := 0x12, inp := inp }
  | .validate => { opc := 0x13 }
  | .asBytes => { opc := 0x14 }
  | .display => { opc := 0x15 }
  | .decodeView => { opc := 0x16 }
  | .encodeSignal => { opc := 0x20 }
  | .batchClear => { opc := 0x30 }
  | .batchAppend timestamp => { opc := 0x31, arg0 := timestamp }
  | .compose interval glitch => { opc := 0x32, arg0 := interval, arg1 := glitch }
  | .packSamples inp => { opc := 0x33, inp := inp }

/-- The opcodes of R83. -/
def assignedOpcodes : List Byte :=
  [0x01, 0x02, 0x10, 0x11, 0x12, 0x13, 0x14, 0x15, 0x16, 0x20, 0x30, 0x31, 0x32, 0x33]

/-! The pseudo-commands (R88) and the capture sequence (R262). -/

/-- `SINGLE`: BATCH_CLEAR, BATCH_APPEND 0, COMPOSE 0, 0 (R88, R225). -/
def pseudoSingle : List Instr := [.batchClear, .batchAppend 0, .compose 0 0]

/-- `READ_<F>` for a named layout `F` (R88). -/
def pseudoRead (l : FieldLayout) : Instr :=
  .fieldRead (BitVec.ofNat 32 l.offset) (BitVec.ofNat 32 l.length)

/-- `READ_DATA i` (R88). -/
def pseudoReadData (i : Nat) : Instr := pseudoRead (Machine.DATA i)

/-- The commands a host issues for a capture: BATCH_CLEAR, then BUILD_TOKENS and BATCH_APPEND for each
(timestamp, token string) in order, then COMPOSE R, G (R262). -/
def captureSequence (events : List (Word32 × List Byte)) (interval glitch : Word32) : List Instr :=
  .batchClear :: (events.flatMap fun e => [.buildTokens e.2, .batchAppend e.1]) ++
    [.compose interval glitch]

/-! The numeric form of a transaction: OPC is bits 7..0, ARGk the 32 bits from bit 8 + 32·k, byte j of IN
the 8 bits from bit 168 + 8·j, each field's least significant bit first. The order is the one of R87 (the
opcode byte, then the operand values); the numbering is a DESIGN CHOICE (entry 2) and no command depends
on it. -/

/-- Bits of the transaction before IN: the opcode and five operands. -/
def headBits : Nat := 168

/-- The bytes of IN as one number, byte 0 least significant. -/
def bytesToNat : List Byte → Nat
  | [] => 0
  | b :: rest => b.toNat + 256 * bytesToNat rest

/-- `n` bytes of a number, least significant first. -/
def natToBytes : Nat → Nat → List Byte
  | 0, _ => []
  | n + 1, w => BitVec.ofNat 8 w :: natToBytes n (w / 256)

/-- The transaction as a number. -/
def Command.toWord (c : Command) : Nat :=
  c.opc.toNat + 2 ^ 8 * c.arg0.toNat + 2 ^ 40 * c.arg1.toNat + 2 ^ 72 * c.arg2.toNat +
    2 ^ 104 * c.arg3.toNat + 2 ^ 136 * c.arg4.toNat + 2 ^ 168 * bytesToNat c.inp

/-- How many bits the transaction has. -/
def Command.bits (c : Command) : Nat := headBits + 8 * c.inp.length

/-- The transaction whose first `nbits` bits are `w`; every later operand bit is 0, and IN has the whole
bytes that `nbits` leaves for it. -/
def Command.ofWord (nbits w : Nat) : Command :=
  let v := w % 2 ^ nbits
  { opc := BitVec.ofNat 8 v
    arg0 := BitVec.ofNat 32 (v / 2 ^ 8)
    arg1 := BitVec.ofNat 32 (v / 2 ^ 40)
    arg2 := BitVec.ofNat 32 (v / 2 ^ 72)
    arg3 := BitVec.ofNat 32 (v / 2 ^ 104)
    arg4 := BitVec.ofNat 32 (v / 2 ^ 136)
    inp := natToBytes ((nbits - headBits) / 8) (v / 2 ^ 168) }

/-- The instruction the decoder reads from the transaction whose bits are `w`; none where it refuses. -/
def decodeTableWord (nbits w : Nat) : Option Instr :=
  match decode (Command.ofWord nbits w) with
  | .ok i => some i
  | .error _ => none

end Sys2Proof
end

