-- ==== Sys2Proof/Config.lean ====
section
/-! DEFINITION. What an implementation fixes (the OPEN parameters of R9) and the one free value. -/

namespace Sys2Proof

/-- The OPEN parameters of the block (R9, R10). A run never changes them (R47, R270). -/
structure Params where
  /-- `MSG_CAP`, bytes of a message buffer. -/
  msgCap : Nat
  /-- `MAX_BATCH`, entries of BATCH. -/
  maxBatch : Nat
  /-- `OUT_CAP`, output bytes of one command. -/
  outCap : Nat
deriving DecidableEq, Repr

/-- The constraints R9 puts on the OPEN parameters. -/
abbrev Params.Legal (p : Params) : Prop :=
  89 ≤ p.msgCap ∧ 1 ≤ p.maxBatch ∧ 3541 ≤ p.outCap ∧ p.outCap < 2 ^ 29

/-- The configuration the vectors of spec/95_test_vectors.md use. `MSG_CAP` 90 is the reference value
of R9; 16 and 65536 are the vectors' own choice. DESIGN CHOICE (entry 3), unsafe for a claim about the
run from reset alone; no statement rests on it. -/
def Params.reference : Params := { msgCap := 90, maxBatch := 16, outCap := 65536 }

/-- FREE VALUE (entry 4): what a 32-bit result register holds when the count a rule writes to it is
2^32 or more, a case for which the spec states no result. It has no body: nothing can be proved of it.
DESIGN CHOICE, safe. -/
opaque Config.wideResult : Nat → Word32

end Sys2Proof
end

