-- ==== Sys2Proof/Machine/State.lean ====
section
/-! DEFINITION. The state of the block: every piece R49 lists, each with its reset value (R50), and the
model's own two fields: the implementation's parameters and the host's pending events. -/

namespace Sys2Proof.Machine

/-- A message buffer: its bytes as (address, byte) pairs, addresses strictly rising, no pair equal to
what an unlisted address reads as (`Memory.wf`, Machine/Buffer.lean). The buffer's addresses are 0 to
`MSG_CAP` − 1 (R60); MSG, the working buffer W and the BATCH copies have this one form. -/
abbrev Memory := List Host.Cell

/-- One BATCH entry: a 32-bit timestamp and a copy of a message buffer (R35, R36). -/
structure BatchEntry where
  ts : Word32
  msg : Memory
deriving DecidableEq, Repr

structure State where
  /-- MSG, the message buffer (R31). -/
  msg : Memory
  /-- MSG_VALID (R32). -/
  msgValid : Bool
  /-- BATCH, in append order (R35). -/
  batch : List BatchEntry
  /-- ERR_STICKY (R37). -/
  errSticky : BitVec 16
  /-- STATUS (R38). -/
  status : BitVec 8
  /-- RES0 (R39). -/
  res0 : Word32
  /-- RES1 (R39). -/
  res1 : Word32
  /-- VFIND (R40). -/
  vfind : BitVec 68
  /-- OUT (R41). -/
  out : List Byte
  /-- The model's own: the OPEN parameters of R9, which nothing changes (R47; entry 3). -/
  params : Params
  /-- The model's own: what the host has issued and the block has not yet taken (R8, R270; entry 1). -/
  pending : List HostEvent
deriving DecidableEq, Repr

/-- The reasons the machine stops: none. Every error of the spec is a status code after which the block
takes the next command (R240, R253, R254), so no step ever faults (entry 8; safe). -/
inductive Fault
deriving DecidableEq, Repr

/-- The reasons an instruction has no meaning. -/
inductive Refusal where
  /-- Raised by an arm of `exec` whose instruction has no meaning yet; no arm raises it, since all 14
  commands have theirs. Safe: a refused instruction proves nothing about the block. -/
  | notModelled (mnemonic : String)
deriving DecidableEq, Repr

/-- The block after reset with parameters `p`: the values of R50 and R270. Nothing is pending (entry 1). -/
def State.resetWith (p : Params) : State where
  msg := []
  msgValid := false
  batch := []
  errSticky := 0x0000
  status := 0x00
  res0 := 0
  res1 := 0
  vfind := 0
  out := []
  params := p
  pending := []

/-- The block after power-on (R270), in the reference configuration (entry 3). -/
def State.reset : State := State.resetWith Params.reference

/-- The outcome of a command or a step. -/
abbrev Result := Host.Outcome State Fault Refusal

end Sys2Proof.Machine
end

