-- ==== Sys2Proof/Machine/Buffer.lean ====
section
/-! DEFINITION. The message buffer: byte access on the canonical form, the 4-byte big-endian window
(R17, R62, R67), field read and write (R121, R123), message bits (R14). -/

namespace Sys2Proof.Machine

/-- What a byte that nothing has written reads as: a buffer starts zero-filled (R46, R50, R272). -/
def unwritten : Byte := 0

/-- The canonical form of a buffer. -/
abbrev Memory.wf (m : Memory) : Prop :=
  m.Pairwise (fun c d => c.1 < d.1) ∧ ∀ c ∈ m, c.2 ≠ unwritten

/-- The byte at address `a`. -/
def Memory.read : Memory → Nat → Byte
  | [], _ => unwritten
  | (k, v) :: rest, a => if a = k then v else Memory.read rest a

/-- A cell, or nothing when the byte is what an unlisted address reads as. -/
def cell (a : Nat) (v : Byte) : Memory := if v = unwritten then [] else [(a, v)]

/-- Write the byte at address `a`, keeping the canonical form. -/
def Memory.write : Memory → Nat → Byte → Memory
  | [], a, v => cell a v
  | (k, w) :: rest, a, v =>
    if a < k then cell a v ++ (k, w) :: rest
    else if a = k then cell a v ++ rest
    else (k, w) :: Memory.write rest a v

/-- The bytes `m[a .. a+n)` (R15). -/
def Memory.bytes (m : Memory) (a n : Nat) : List Byte := (List.range n).map fun j => m.read (a + j)

/-- The buffer that holds `bytes` from address `a` on, and zero elsewhere. -/
def Memory.ofBytesFrom : Nat → List Byte → Memory
  | _, [] => []
  | a, v :: rest => cell a v ++ Memory.ofBytesFrom (a + 1) rest

/-- `IN ++ 0x00^(MSG_CAP − |IN|)` (R146). -/
def Memory.ofBytes (bytes : List Byte) : Memory := Memory.ofBytesFrom 0 bytes

/-- The 4 bytes from address `b` as one big-endian number, `m[b]` most significant (R17, R62). -/
def window (m : Memory) (b : Nat) : Word32 :=
  m.read b ++ m.read (b + 1) ++ m.read (b + 2) ++ m.read (b + 3)

/-- Write the 4 bytes from address `b`, `m[b]` receiving bits 31:24 (R17). -/
def setWindow (m : Memory) (b : Nat) (w : Word32) : Memory :=
  (((m.write b (w.extractLsb' 24 8)).write (b + 1) (w.extractLsb' 16 8)).write (b + 2)
    (w.extractLsb' 8 8)).write (b + 3) (w.extractLsb' 0 8)

/-- `MemRead(buf, a, 4)` of a buffer of `cap` bytes (R17); every field access moves exactly 4 bytes (R67). -/
def memRead (cap : Nat) (m : Memory) (a : Nat) : Except ErrorCode Word32 :=
  if cap < a + 4 then .error .bufferBoundsError else .ok (window m a)

/-- `MemWrite(buf, a, 4, w)` of a buffer of `cap` bytes (R17). -/
def memWrite (cap : Nat) (m : Memory) (a : Nat) (w : Word32) : Except ErrorCode Memory :=
  if cap < a + 4 then .error .bufferBoundsError else .ok (setWindow m a w)

/-- The first byte of a field's window: `o div 8` (R121). -/
def windowByte (l : FieldLayout) : Nat := l.offset / 8

/-- The right shift `32 − L − (o mod 8)` that brings a field to the low bits (R121). -/
def fieldShift (l : FieldLayout) : Nat := 32 - l.length - l.offset % 8

/-- `2^L − 1` (R121). -/
def fieldMask (l : FieldLayout) : Word32 := BitVec.ofNat 32 (2 ^ l.length - 1)

/-- The field of a window (R121). -/
def fieldOf (l : FieldLayout) (w : Word32) : Word32 := (w >>> fieldShift l) &&& fieldMask l

/-- The window with the field's bits replaced by the low `L` bits of `v` (R123). -/
def fieldInto (l : FieldLayout) (w v : Word32) : Word32 :=
  (w &&& ~~~(fieldMask l <<< fieldShift l)) ||| ((v &&& fieldMask l) <<< fieldShift l)

/-- `readField(buf, layout)` on a buffer of `cap` bytes (R121). -/
def readField (cap : Nat) (m : Memory) (l : FieldLayout) : Except ErrorCode Word32 :=
  match memRead cap m (windowByte l) with
  | .error e => .error e
  | .ok w => .ok (fieldOf l w)

/-- `writeField(buf, layout, v)` on a buffer of `cap` bytes (R123). -/
def writeField (cap : Nat) (m : Memory) (l : FieldLayout) (v : Word32) : Except ErrorCode Memory :=
  match memRead cap m (windowByte l) with
  | .error e => .error e
  | .ok w => memWrite cap m (windowByte l) (fieldInto l w v)

/-- `readField` where it cannot raise: the accesses of R245, whose window lies inside every buffer of at
least 89 bytes (entry 6). -/
def getField (m : Memory) (l : FieldLayout) : Word32 := fieldOf l (window m (windowByte l))

/-- `writeField` where it cannot raise (R245, entry 6). -/
def setField (m : Memory) (l : FieldLayout) (v : Word32) : Memory :=
  setWindow m (windowByte l) (fieldInto l (window m (windowByte l)) v)

/-- Message bit `i`: bit `7 − (i mod 8)` of byte `i div 8` (R14, R196). -/
def msgBit (m : Memory) (i : Nat) : Bool := (m.read (i / 8)).getLsbD (7 - i % 8)

/-- `readField(buf, LEN)`, the declared data length. -/
def dataLength (m : Memory) : Nat := (getField m LEN).toNat

/-- Data byte `i` (R94). -/
def dataByte (m : Memory) (i : Nat) : Byte := (getField m (DATA i)).setWidth 8

/-- The data bytes the declared length gives, in order (R151). -/
def dataBytes (m : Memory) : List Byte := (List.range (dataLength m)).map (dataByte m)

end Sys2Proof.Machine
end

