-- ==== Sys2Proof/Machine/Flags.lean ====
section
/-! DEFINITION. Parity (R125), the validation findings (R147), the status codes (R241) and the sticky
event bits (R37). The block has no flags register (R48). -/

namespace Sys2Proof.Machine

/-- `parity(v)`: the exclusive-or of all 32 bits of `v` (R125, R128). -/
def parity (v : Word32) : Bool := (List.range 32).foldl (fun p j => p ^^ v.getLsbD j) false

/-- The parity bit as a field value or result. -/
def parityBit (v : Word32) : Word32 := if parity v then 1 else 0

/-- The stored parity bit differs from the recomputed parity (R147). -/
def mismatch (m : Memory) (field parityOf : FieldLayout) : Bool :=
  getField m parityOf != parityBit (getField m field)

/-- Finding bit `j`: 0 master, 1 slave, 2 control, 3 data length, 4+i data byte i while `i` is below the
declared length (R40, R147). -/
def finding (m : Memory) : Nat → Bool
  | 0 => mismatch m MASTER MASTER_P
  | 1 => mismatch m SLAVE SLAVE_P
  | 2 => mismatch m CTRL CTRL_P
  | 3 => mismatch m LEN LEN_P
  | i + 4 => i < dataLength m && mismatch m (DATA i) (DATA_P i)

/-- The vector whose bit `j`, for `j` below `n`, is `f j`. -/
def bitsBelow (f : Nat → Bool) : Nat → BitVec 68
  | 0 => 0
  | n + 1 => bitsBelow f n ||| (if f n then 1#68 <<< n else 0)

/-- `validate(buf)`, the 68 findings (R147). -/
def findings (m : Memory) : BitVec 68 := bitsBelow (finding m) 68

/-- `pass`: 1 when there is no finding (R147). -/
def passFlag (f : BitVec 68) : Word32 := if f = 0 then 1 else 0

/-- OK when there is no finding, else ValidationWarning (R146, R148). -/
def verdict (f : BitVec 68) : StatusCode := if f = 0 then .ok else .validationWarning

/-- `k` of the error code `0x10 + k` (R37, R241). -/
def errorIndex : ErrorCode → Nat
  | .formatError => 0
  | .rangeError => 1
  | .decodeError => 2
  | .bufferBoundsError => 3
  | .layoutError => 4
  | .noMessage => 5
  | .batchFull => 6
  | .emptyBatch => 7
  | .offsetOrder => 8
  | .overrun => 9
  | .capacityError => 10
  | .illegalCommand => 11

/-- The STATUS byte (R241). -/
def statusByte : StatusCode → BitVec 8
  | .ok => 0x00
  | .validationWarning => 0x01
  | .error e => BitVec.ofNat 8 (0x10 + errorIndex e)

/-- The ERR_STICKY bit a command's end sets, as a mask (R37, R248). -/
def stickyMask : StatusCode → BitVec 16
  | .ok => 0
  | .validationWarning => 1#16 <<< 15
  | .error e => 1#16 <<< errorIndex e

end Sys2Proof.Machine
end

