-- ==== Sys2Proof/Machine/Ops.lean ====
section
/-! DEFINITION. The operations every command is made of: clearing and writing the response registers
(R42), ending a command (R248), raising an error (R18, R247), committing a message (R140), and the
encode-path writer (R141). -/

namespace Sys2Proof.Machine

/-- The response registers but STATUS; a register a rule does not name is 0 (R39, R42). -/
structure Response where
  res0 : Word32 := 0
  res1 : Word32 := 0
  vfind : BitVec 68 := 0
  out : List Byte := []
deriving DecidableEq, Repr

/-- Write RES0, RES1, VFIND and OUT. -/
def State.setResponse (s : State) (r : Response) : State :=
  { s with res0 := r.res0, res1 := r.res1, vfind := r.vfind, out := r.out }

/-- The start of every command: RES0, RES1, VFIND and OUT are cleared (R42). -/
def State.beginCommand (s : State) : State := s.setResponse {}

/-- `endCommand(code)`: STATUS is written and the sticky bit set (R248). -/
def State.endCommand (s : State) (code : StatusCode) : State :=
  { s with status := statusByte code, errSticky := s.errSticky ||| stickyMask code }

/-- `MSG <- W; MSG_VALID <- 1` (R140). -/
def State.commitMessage (s : State) (w : Memory) : State := { s with msg := w, msgValid := true }

/-- `BATCH <- b`. -/
def State.setBatch (s : State) (b : List BatchEntry) : State := { s with batch := b }

/-- What the host has issued after the event at hand. -/
def State.setPending (s : State) (rest : List HostEvent) : State := { s with pending := rest }

/-- A command that completes: response registers cleared, its results written, STATUS last (R42, R248). -/
def finish (code : StatusCode) (r : Response) (s : State) : Result :=
  .next ((s.beginCommand.setResponse r).endCommand code)

/-- `raise E`, the one exception operation: the command ends with the error's status, MSG, MSG_VALID and
BATCH as they were, the response registers cleared, the sticky bit set (R18, R247, R248). There is no
trap entry and no return from one (R253, R254). -/
def raise (e : ErrorCode) (s : State) : Result := .next (s.beginCommand.endCommand (.error e))

/-- The first check of every command that reads MSG: NoMessage when `MSG_VALID = 0` (R243). -/
def withMessage (s : State) (k : Memory → Result) : Result :=
  if s.msgValid then k s.msg else raise .noMessage s

/-- A count as a 32-bit result. Below 2^32 it is the count; beyond, no rule states the result, and it is
the free value (entry 4). -/
def countResult (n : Nat) : Word32 := if n < 2 ^ 32 then BitVec.ofNat 32 n else Config.wideResult n

/-- Write a field when its value is supplied. -/
def setIfSupplied (m : Memory) (v : Option Word32) (write : Memory → Word32 → Memory) : Memory :=
  match v with
  | none => m
  | some x => write m x

/-- A field and its parity bit (R141). -/
def setWithParity (field parityOf : FieldLayout) (m : Memory) (v : Word32) : Memory :=
  setField (setField m field v) parityOf (parityBit v)

/-- A field, its parity bit and the default acknowledgement NAK (R141). -/
def setWithParityAck (field parityOf ackOf : FieldLayout) (m : Memory) (v : Word32) : Memory :=
  setField (setWithParity field parityOf m v) ackOf NAK

/-- The data units from number `i` on (R141). -/
def setDataUnits : Memory → Nat → List Byte → Memory
  | m, _, [] => m
  | m, i, d :: rest =>
    setDataUnits (setWithParityAck (DATA i) (DATA_P i) (DATA_A i) m (d.setWidth 32)) (i + 1) rest

/-- The data length and the data units, when data is supplied (R141, R143). -/
def setData (m : Memory) : Option (List Byte) → Memory
  | none => m
  | some d => setDataUnits (setWithParityAck LEN LEN_P LEN_A m (BitVec.ofNat 32 d.length)) 0 d

/-- `encodeFields` into a zero working buffer W (R46, R141). -/
def encodeFields (f : Supplied) : Memory :=
  let w : Memory := []
  let w := setIfSupplied w f.bcast (fun m v => setField m BCAST v)
  let w := setIfSupplied w f.master (setWithParity MASTER MASTER_P)
  let w := setIfSupplied w f.slave (setWithParityAck SLAVE SLAVE_P SLAVE_A)
  let w := setIfSupplied w f.control (setWithParityAck CTRL CTRL_P CTRL_A)
  setData w f.data

end Sys2Proof.Machine
end

