-- ==== Sys2Proof/Machine/FieldUnit.lean ====
section
/-! DEFINITION. The field unit: FIELD_READ and PARITY (spec/41_field_parity.md). -/

namespace Sys2Proof.Machine

/-- FIELD_READ (R127): NoMessage, LayoutError, BufferBoundsError in that order, else RES0 is the field. -/
def execFieldRead (offset length : Word32) (s : State) : Result :=
  let l : FieldLayout := ⟨offset.toNat, length.toNat⟩
  withMessage s fun m =>
    if isLegalLayout l then
      match readField s.params.msgCap m l with
      | .error e => raise e s
      | .ok v => finish .ok { res0 := v } s
    else raise .layoutError s

/-- PARITY (R128): RES0 is the parity of all 32 bits of ARG0; it needs no message and has no error. -/
def execParity (value : Word32) (s : State) : Result := finish .ok { res0 := parityBit value } s

end Sys2Proof.Machine
end

