-- ==== Sys2Proof/Machine/Signal.lean ====
section
/-! DEFINITION. Sample sequences: the line code and the line signal of a message (R194 to R200), packing
(R226, R227), and the timeline operations of the composer (R215 to R222). -/

namespace Sys2Proof.Machine

/-- `HIGH^n` (R15). -/
def high (n : Nat) : List Sample := List.replicate n .high

/-- `LOW^n` (R15). -/
def low (n : Nat) : List Sample := List.replicate n .low

/-- The line code of one bit: bit 0 is LOW for 33 samples then HIGH for 8, bit 1 LOW for 20 then HIGH for
21 (R198). -/
def lineCode (bit : Bool) : List Sample :=
  if bit then low tBit1 ++ high (tBit - tBit1) else low tBit0 ++ high (tBit - tBit0)

/-- The logical bit sequence of a message: its first `44 + 10·len` bits (R195, R196). -/
def messageBits (m : Memory) : List Bool :=
  (List.range (bitLengthOfMessage (dataLength m))).map (msgBit m)

/-- `encodeSignal(buf)` (R197 to R200). -/
def encodeLine (m : Memory) : List Sample :=
  high tStartBit ++ low tBit1 ++ (messageBits m).flatMap lineCode ++ high tTxWait

/-- A sample as a bit: HIGH is 1, LOW is 0 (R15, R226). -/
def sampleBit : Sample → Bool
  | .low => false
  | .high => true

/-- One output byte: the first sample in bit 7; missing samples are padded with 1 (R226). -/
def packByte (g : List Sample) : Byte :=
  (List.range 8).foldl
    (fun b q => b ||| (if sampleBit (g.getD q .high) then 1#8 <<< (7 - q) else 0)) 0

/-- The first `n` groups of 8 samples, packed. -/
def packGroups : Nat → List Sample → List Byte
  | 0, _ => []
  | n + 1, s => packByte (s.take 8) :: packGroups n (s.drop 8)

/-- `pack(S)`: `ceil(N/8)` bytes (R226). -/
def pack (s : List Sample) : List Byte := packGroups (ceilDiv8 s.length) s

/-- The 8 samples of a byte, most significant bit first (R227). -/
def unpackByte (b : Byte) : List Sample :=
  (List.range 8).map fun q => if b.getLsbD (7 - q) then .high else .low

/-- Unpacking, the inverse of `pack` up to the padding (R227). -/
def unpack (bytes : List Byte) : List Sample := bytes.flatMap unpackByte

/-- A line signal placed on the timeline at a sample offset. -/
structure Placed where
  off : Nat
  sig : List Sample
deriving DecidableEq, Repr

/-- One past the last sample of a placed signal: `off_i + len_i` (R217). -/
def placedEnd (p : Placed) : Nat := p.off + p.sig.length

/-- Regular mode, `R ≠ 0`: entry `i` at `i·R` (R215), counting from `i`. -/
def placeRegular (interval : Nat) : Nat → List BatchEntry → List Placed
  | _, [] => []
  | i, e :: rest => ⟨i * interval, encodeLine e.msg⟩ :: placeRegular interval (i + 1) rest

/-- Capture mode, `R = 0`: each entry at `TS_i − TS_0` (R214). -/
def placeCapture (ts0 : Word32) (batch : List BatchEntry) : List Placed :=
  batch.map fun e => ⟨e.ts.toNat - ts0.toNat, encodeLine e.msg⟩

/-- Steps 1 and 2: the placed signals of the batch, in list order (R213 to R215). -/
def placements (interval ts0 : Word32) (batch : List BatchEntry) : List Placed :=
  if interval = 0 then placeCapture ts0 batch else placeRegular interval.toNat 0 batch

/-- Step 3, the timeline length: `k·R` when `R ≠ 0`, else where the last entry ends (R216). -/
def timelineLength (interval : Word32) (ps : List Placed) : Nat :=
  if interval = 0 then (ps.getLast?.map placedEnd).getD 0 else ps.length * interval.toNat

/-- Overwrite `T[off .. off + |sig|)` by `sig` ("overwrite, not insert", R218). -/
def overwrite (t : List Sample) (p : Placed) : List Sample :=
  t.take p.off ++ p.sig ++ t.drop (placedEnd p)

/-- Step 4: an idle timeline with every signal overwritten in list order, later wins (R218, R219). -/
def composeTimeline (total : Nat) (ps : List Placed) : List Sample := ps.foldl overwrite (high total)

/-- Strip the leading HIGH samples. -/
def stripIdle (t : List Sample) : List Sample := t.dropWhile fun x => x == .high

/-- Step 5, `trim(T)`: without the longest all-HIGH start and end (R220). -/
def trim (t : List Sample) : List Sample := (stripIdle (stripIdle t).reverse).reverse

/-- Steps 6 and 7: idle guard at each end, and the glitch samples before the leading one (R221, R222). -/
def frameSamples (glitch : Nat) (u : List Sample) : List Sample :=
  high glitch ++ high guardSamples ++ u ++ high guardSamples

/-- The length of `frameSamples`, known before the sequence is built (R224 `N = G + 20000 + |U|`;
DEDUCED, entry 15). -/
def framedLength (glitch : Nat) (u : List Sample) : Nat := glitch + 2 * guardSamples + u.length

end Sys2Proof.Machine
end

