-- ==== Sys2Proof/Machine/LineEncoder.lean ====
section
/-! DEFINITION. The line encoder: ENCODE_SIGNAL (spec/43_line_encoder.md), and the delivery of packed
samples it shares with PACK_SAMPLES. -/

namespace Sys2Proof.Machine

/-- Deliver a sample sequence: CapacityError when its packed form exceeds `OUT_CAP`, else OUT is the
packed samples and RES0 their number (R203, R228). -/
def deliverSamples (samples : List Sample) (s : State) : Result :=
  if s.params.outCap < ceilDiv8 samples.length then raise .capacityError s
  else finish .ok { out := pack samples, res0 := countResult samples.length } s

/-- ENCODE_SIGNAL (R203). -/
def execEncodeSignal (s : State) : Result :=
  withMessage s fun m => deliverSamples (encodeLine m) s

end Sys2Proof.Machine
end

