-- ==== Sys2Proof/Machine/Display.lean ====
section
/-! DEFINITION. The views of a message: byte view (R149), display string (R100, R150), decode-only
attributes (R151). -/

namespace Sys2Proof.Machine

/-- `asBytes()`: the shortest prefix of the buffer that holds the message's bits (R149). -/
def byteView (m : Memory) : List Byte := m.bytes 0 (byteLengthOfMessage (dataLength m))

/-- `T ' ' MMM ' ' SSS ' ' C ' ' LL ' :'` and then `' ' DD` for each data byte (R100, R150). -/
def displayString (m : Memory) : List Byte :=
  [if getField m BCAST = BROADCAST then 0x42 else 0x2D, 0x20] ++
    hexDigits 3 (getField m MASTER).toNat ++ [0x20] ++
    hexDigits 3 (getField m SLAVE).toNat ++ [0x20] ++
    hexDigits 1 (getField m CTRL).toNat ++ [0x20] ++
    decimal2 (dataLength m) ++ [0x20, 0x3A] ++
    (dataBytes m).flatMap fun d => 0x20 :: hexDigits 2 d.toNat

/-- The adjusted data: a UNICAST message loses its first data byte, the spacer (R151). -/
def adjustedData (m : Memory) : List Byte :=
  if getField m BCAST = UNICAST then (dataBytes m).drop 1 else dataBytes m

/-- A byte of the adjusted data as an identifier, 0 when absent (R151). -/
def identifier (adj : List Byte) (i : Nat) : Word32 := (adj.getD i 0).setWidth 32

end Sys2Proof.Machine
end

