-- ==== Sys2Proof/Machine/MessageCodec.lean ====
section
/-! DEFINITION. The message codec: the three constructors, validation and the three views
(spec/42_message.md). -/

namespace Sys2Proof.Machine

/-- The end of an encode-path constructor: on an operand error nothing but the error is left (R140, R247),
else MSG is the encoded message and RES0 its data length (R142, R144). -/
def buildMessage (operands : Except ErrorCode Supplied) (s : State) : Result :=
  match operands with
  | .error e => raise e s
  | .ok f =>
    let w := encodeFields f
    finish .ok { res0 := getField w LEN } (s.commitMessage w)

/-- BUILD_FIELDS (R142, R143). -/
def execBuildFields (mask bcast master slave control : Word32) (inp : List Byte) (s : State) : Result :=
  buildMessage (parseFields mask bcast master slave control inp) s

/-- BUILD_TOKENS (R144, R145); its RES0, the number of data tokens, is the LEN it has just written. -/
def execBuildTokens (inp : List Byte) (s : State) : Result := buildMessage (parseTokens inp) s

/-- DECODE_BYTES (R146, R155): the four DecodeError checks in order, then the verbatim copy is committed
with its findings, whatever they are. -/
def execDecodeBytes (inp : List Byte) (s : State) : Result :=
  let w := Memory.ofBytes inp
  let f := findings w
  if inp.length < byteLengthOfMessage 0 then raise .decodeError s
  else if maxMsgBytes < inp.length then raise .decodeError s
  else if maxData < dataLength w then raise .decodeError s
  else if inp.length < byteLengthOfMessage (dataLength w) then raise .decodeError s
  else finish (verdict f) { vfind := f, res0 := passFlag f } (s.commitMessage w)

/-- VALIDATE (R148). -/
def execValidate (s : State) : Result :=
  withMessage s fun m =>
    let f := findings m
    finish (verdict f) { vfind := f, res0 := passFlag f } s

/-- AS_BYTES (R149). -/
def execAsBytes (s : State) : Result :=
  withMessage s fun m =>
    let view := byteView m
    finish .ok { out := view, res0 := countResult view.length } s

/-- DISPLAY (R150). -/
def execDisplay (s : State) : Result :=
  withMessage s fun m =>
    let text := displayString m
    finish .ok { out := text, res0 := countResult text.length } s

/-- DECODE_VIEW (R151). -/
def execDecodeView (s : State) : Result :=
  withMessage s fun m =>
    let adj := adjustedData m
    finish .ok { out := adj, res0 := identifier adj 0, res1 := identifier adj 1 } s

end Sys2Proof.Machine
end

