-- ==== Sys2Proof/Machine/Timeline.lean ====
section
/-! DEFINITION. The timeline composer: the batch, COMPOSE and PACK_SAMPLES (spec/44_timeline.md). -/

namespace Sys2Proof.Machine

/-- BATCH_CLEAR (R210). -/
def execBatchClear (s : State) : Result := finish .ok {} (s.setBatch [])

/-- BATCH_APPEND (R211): NoMessage, then BatchFull; else a copy of MSG with its timestamp is appended. -/
def execBatchAppend (timestamp : Word32) (s : State) : Result :=
  withMessage s fun m =>
    if s.batch.length = s.params.maxBatch then raise .batchFull s
    else
      let b := s.batch ++ [⟨timestamp, m⟩]
      finish .ok { res0 := countResult b.length } (s.setBatch b)

/-- COMPOSE (R224): EmptyBatch, OffsetOrder, Overrun, CapacityError in that order; else the timeline is
composed, trimmed, guarded, given its glitch samples and packed. -/
def execCompose (interval glitch : Word32) (s : State) : Result :=
  match s.batch with
  | [] => raise .emptyBatch s
  | first :: rest =>
    if interval = 0 ∧ (first :: rest).any (fun e => e.ts.toNat < first.ts.toNat) then
      raise .offsetOrder s
    else
      let ps := placements interval first.ts (first :: rest)
      let total := timelineLength interval ps
      if ps.any (fun p => total < placedEnd p) then raise .overrun s
      else
        let u := trim (composeTimeline total ps)
        let n := framedLength glitch.toNat u
        if s.params.outCap < ceilDiv8 n then raise .capacityError s
        else finish .ok
          { out := pack (frameSamples glitch.toNat u), res0 := countResult n,
            res1 := countResult u.length } s

/-- PACK_SAMPLES (R228): FormatError, then CapacityError; no trim, guard or glitch (R229). -/
def execPackSamples (inp : List Byte) (s : State) : Result :=
  match parseSamples inp with
  | .error e => raise e s
  | .ok samples => deliverSamples samples s

end Sys2Proof.Machine
end

