-- ==== Sys2Proof/Machine/Dispatch.lean ====
section
/-! DEFINITION. The meaning of every command, one arm each. -/

namespace Sys2Proof.Machine

def exec (i : Instr) (s : State) : Host.Outcome State Fault Refusal :=
  match i with
  -- field unit
  | .fieldRead offset length => Sys2Proof.Machine.execFieldRead offset length s
  | .parity value => Sys2Proof.Machine.execParity value s
  -- message codec
  | .buildFields mask bcast master slave control inp => Sys2Proof.Machine.execBuildFields mask bcast master slave control inp s
  | .buildTokens inp => Sys2Proof.Machine.execBuildTokens inp s
  | .decodeBytes inp => Sys2Proof.Machine.execDecodeBytes inp s
  | .validate => Sys2Proof.Machine.execValidate s
  | .asBytes => Sys2Proof.Machine.execAsBytes s
  | .display => Sys2Proof.Machine.execDisplay s
  | .decodeView => Sys2Proof.Machine.execDecodeView s
  -- line encoder
  | .encodeSignal => Sys2Proof.Machine.execEncodeSignal s
  -- timeline composer
  | .batchClear => Sys2Proof.Machine.execBatchClear s
  | .batchAppend timestamp => Sys2Proof.Machine.execBatchAppend timestamp s
  | .compose interval glitch => Sys2Proof.Machine.execCompose interval glitch s
  | .packSamples inp => Sys2Proof.Machine.execPackSamples inp s

end Sys2Proof.Machine
end

