-- ==== Sys2Proof/Machine/Events.lean ====
section
/-! DEFINITION. What the block does with a host event that is no legal command: an unassigned opcode, the
reset event, and no event at all. -/

namespace Sys2Proof.Machine

/-- An unassigned opcode raises IllegalCommand before any operand is read; nothing else happens (R85, R249). -/
def execIllegal (s : State) : Result := raise .illegalCommand s

/-- The reset event (R270): every piece of persistent and response state at its reset value; the
parameters are untouched (R47), and what the host has issued after it stays issued (entry 7). -/
def takeReset (s : State) : State := (State.resetWith s.params).setPending s.pending

/-- With no event the block is idle and all state survives (R261, R271). -/
def idle (s : State) : State := s

/-- The event the host has issued first, put in front of those it has already issued. -/
def State.issue (s : State) (e : HostEvent) : State := s.setPending (e :: s.pending)

end Sys2Proof.Machine
end

