-- ==== Sys2Proof/Machine/Step.lean ====
section
/-! DEFINITION. One step: the block takes the first event the host has issued (R73, R274; entry 1). -/

namespace Sys2Proof.Machine

/-- A decoded command runs; an unassigned opcode raises IllegalCommand (R249). -/
def runCommand (c : Command) (s : State) : Result :=
  match decode c with
  | .ok i => exec i s
  | .error _ => execIllegal s

/-- One step: idle with no event, a reset, or one command as one atomic step (R69, R270, R274). -/
def step (s : State) : Host.Outcome State Fault Refusal :=
  match s.pending with
  | [] => .next (idle s)
  | .reset :: rest => .next (takeReset (s.setPending rest))
  | .command c :: rest => runCommand c (s.setPending rest)

/-- `s` with the transaction whose first `nbits` bits are `w` issued by the host as the next event: the
place where `step` takes its next command (entry 2). -/
def State.withFetchWord (s : State) (nbits w : Nat) : State :=
  s.issue (.command (Command.ofWord nbits w))

end Sys2Proof.Machine
end

