-- ==== Sys2Proof/Safety.lean ====
section
/-! DEFINITION. What a safe run is, in the terms the statements use: the invariant of the state, the
host's view, and the two shapes in which a command can end, spelled out field by field. -/

namespace Sys2Proof.Machine

/-- The codes of R241; no other value appears in STATUS (R38). -/
def statusCodes : List (BitVec 8) :=
  [0x00, 0x01, 0x10, 0x11, 0x12, 0x13, 0x14, 0x15, 0x16, 0x17, 0x18, 0x19, 0x1A, 0x1B]

/-- A message buffer as R33 has it: in canonical form, every byte from 86 on zero, LEN at most 64. -/
abbrev MessageOk (m : Memory) : Prop :=
  m.wf ∧ (∀ c ∈ m, c.1 < maxMsgBytes) ∧ dataLength m ≤ maxData

/-- The invariant of the block: legal parameters (R9), MSG and every BATCH entry as R33 and R36 have
them, no message and no batch before a constructor has completed (R32, R211), at most `MAX_BATCH`
entries (R35), at most `OUT_CAP` output bytes (R41), a listed STATUS (R38), reserved sticky bits 0 (R37),
and findings only beside ValidationWarning (R40, R246). -/
abbrev BlockInv (s : State) : Prop :=
  s.params.Legal ∧ MessageOk s.msg ∧ (∀ e ∈ s.batch, MessageOk e.msg) ∧
    (s.msgValid = false → s.msg = [] ∧ s.batch = []) ∧
    s.batch.length ≤ s.params.maxBatch ∧ s.out.length ≤ s.params.outCap ∧
    s.status ∈ statusCodes ∧ s.errSticky &&& 0x7000#16 = 0 ∧ (s.vfind ≠ 0 → s.status = 0x01)

/-- What the host can read (R49). -/
structure HostView where
  status : BitVec 8
  res0 : Word32
  res1 : Word32
  vfind : BitVec 68
  out : List Byte
  errSticky : BitVec 16
deriving DecidableEq, Repr

def State.hostView (s : State) : HostView :=
  { status := s.status, res0 := s.res0, res1 := s.res1, vfind := s.vfind, out := s.out,
    errSticky := s.errSticky }

/-- `s` after a command that raised the error with code `0x10 + k`: the state before it, the response
registers cleared, STATUS and one sticky bit set (R247, R248). -/
def abortedWith (k : Nat) (s : State) : State :=
  { s with res0 := 0, res1 := 0, vfind := 0, out := [],
           status := BitVec.ofNat 8 (0x10 + k), errSticky := s.errSticky ||| 1#16 <<< k }

/-- `s` with the response of a command that ended OK and wrote no finding (R42, R248). -/
def completedWith (res0 res1 : Word32) (out : List Byte) (s : State) : State :=
  { s with res0 := res0, res1 := res1, vfind := 0, out := out, status := 0x00 }

/-- `s` with the response of a command that ended with findings `f`: OK and 1 when there is none, else
ValidationWarning, 0 and sticky bit 15 (R246, R248). -/
def judgedWith (f : BitVec 68) (s : State) : State :=
  { s with res0 := if f = 0 then 1 else 0, res1 := 0, vfind := f, out := [],
           status := if f = 0 then 0x00 else 0x01,
           errSticky := if f = 0 then s.errSticky else s.errSticky ||| 0x8000#16 }

/-- The state after running a list of instructions, one after another; none if one did not answer a next
state. -/
def runAll : List Instr → State → Option State
  | [], s => some s
  | i :: rest, s =>
    match exec i s with
    | .next t => runAll rest t
    | .fault _ => none
    | .refused _ => none

end Sys2Proof.Machine
end

