-- ==== Sys2Proof/Certificates/Slice0/Obligations.lean ====
section
/-! DEFINITION. The statements for the provers, from the numbered rules of spec/. `abortedWith`,
`completedWith` and `judgedWith` (Safety.lean) spell out every field of the state a command leaves, so an
equation with one of them says the result and the frame. -/

open Sys2Proof Sys2Proof.Machine

namespace Sys2Proof.Claims

/-- The number of 1 bits (R12). -/
def popcount (v : Word32) : Nat := ((List.range 32).filter fun j => v.getLsbD j).length

/-- The message bits `o` to `o + n − 1` read most significant first (R14, R122). -/
def bitsValue (m : Memory) (o n : Nat) : Nat :=
  (List.range n).foldl (fun v k => 2 * v + (msgBit m (o + k)).toNat) 0

/-- What R141 makes of the supplied fields: each supplied field with its parity and default
acknowledgement, each other field zero, and no bit set past the message (R71, R143). The fields are named
by the message bits of R92's table. -/
def Encoded (w : Memory) (f : Supplied) : Prop :=
  w.wf ∧ bitsValue w 0 1 = (f.bcast.getD 0).toNat ∧
  bitsValue w 1 12 = (f.master.getD 0).toNat ∧ bitsValue w 13 1 = popcount (f.master.getD 0) % 2 ∧
  bitsValue w 14 12 = (f.slave.getD 0).toNat ∧ bitsValue w 26 1 = popcount (f.slave.getD 0) % 2 ∧
  bitsValue w 27 1 = (if f.slave.isSome then 1 else 0) ∧
  bitsValue w 28 4 = (f.control.getD 0).toNat ∧ bitsValue w 32 1 = popcount (f.control.getD 0) % 2 ∧
  bitsValue w 33 1 = (if f.control.isSome then 1 else 0) ∧
  bitsValue w 34 8 = (f.data.getD []).length ∧
  bitsValue w 42 1 = popcount (BitVec.ofNat 32 (f.data.getD []).length) % 2 ∧
  bitsValue w 43 1 = (if f.data.isSome then 1 else 0) ∧
  (∀ i, i < (f.data.getD []).length →
    bitsValue w (44 + 10 * i) 8 = ((f.data.getD []).getD i 0).toNat ∧
    bitsValue w (52 + 10 * i) 1 = popcount (((f.data.getD []).getD i 0).setWidth 32) % 2 ∧
    bitsValue w (53 + 10 * i) 1 = 1) ∧
  ∀ i, 44 + 10 * (f.data.getD []).length ≤ i → msgBit w i = false

/-- Sample `x` of the line signal of `m`, from the start condition on (R197 to R199); idle past its end. -/
def lineSample (m : Memory) (x : Nat) : Sample :=
  if x < 170 then .high
  else if x < 190 then .low
  else if x < 190 + 41 * (44 + 10 * dataLength m) then
    if (x - 190) % 41 < (if msgBit m ((x - 190) / 41) then 20 else 33) then .low else .high
  else .high

/-- `len_i` (R213). -/
def signalLength (b : List BatchEntry) (i : Nat) : Nat :=
  278 + 41 * (44 + 10 * ((b[i]?.map fun e => dataLength e.msg).getD 0))

/-- `off_i` (R214, R215). -/
def offsetOf (r : Word32) (b : List BatchEntry) (i : Nat) : Nat :=
  if r = 0 then (b[i]?.map fun e => e.ts.toNat).getD 0 - (b[0]?.map fun e => e.ts.toNat).getD 0
  else i * r.toNat

/-- `total` (R216). -/
def totalOf (r : Word32) (b : List BatchEntry) : Nat :=
  if r = 0 then offsetOf r b (b.length - 1) + signalLength b (b.length - 1) else b.length * r.toNat

/-- Entry `i` covers timeline sample `x`. -/
def covers (r : Word32) (b : List BatchEntry) (i x : Nat) : Prop :=
  offsetOf r b i ≤ x ∧ x < offsetOf r b i + signalLength b i

/-- Timeline `t` of a batch (R218, R219): it has `total` samples; sample `x` is idle when no entry covers
it, and is the sample of the last entry in list order that does. -/
def IsTimeline (r : Word32) (b : List BatchEntry) (t : List Sample) : Prop :=
  t.length = totalOf r b ∧
  ∀ x, x < t.length →
    ((∀ i, i < b.length → ¬ covers r b i x) → t[x]? = some .high) ∧
    ∀ i e, b[i]? = some e → covers r b i x → (∀ j, i < j → j < b.length → ¬ covers r b j x) →
      t[x]? = some (lineSample e.msg (x - offsetOf r b i))

/-- `u` is `t` without its idle ends, and is not idle itself (R220). -/
def IsTrimmed (t u : List Sample) : Prop :=
  (∃ a b, t = high a ++ u ++ high b) ∧ u.head? = some .low ∧ u.getLast? = some .low

/-- No timestamp is below the first when timestamps are used (R214). -/
def Ordered (r : Word32) (b : List BatchEntry) : Prop :=
  r = 0 → ∀ e ∈ b, (b[0]?.map fun d => d.ts.toNat).getD 0 ≤ e.ts.toNat

/-- Every signal fits the timeline (R217). -/
def NoOverrun (r : Word32) (b : List BatchEntry) : Prop :=
  ∀ i, i < b.length → offsetOf r b i + signalLength b i ≤ totalOf r b

/-- `s` with every timestamp of its batch raised by `c`. -/
def shifted (c : Nat) (s : State) : State :=
  { s with batch := s.batch.map fun e => { e with ts := e.ts + BitVec.ofNat 32 c } }

end Sys2Proof.Claims

open Sys2Proof.Claims

/-! ## Reset, steps, decoding -/

/-- R50: the reset values. -/
def Obligations.ResetStateHoldsResetValues : Prop :=
  (∀ a, State.reset.msg.read a = 0) ∧ State.reset.msgValid = false ∧ State.reset.batch = [] ∧
  State.reset.errSticky = 0x0000 ∧ State.reset.status = 0x00 ∧ State.reset.res0 = 0 ∧
  State.reset.res1 = 0 ∧ State.reset.vfind = 0 ∧ State.reset.out = []

/-- R270: the reset event, from any state. -/
def Obligations.ResetEventRestoresResetValues : Prop :=
  ∀ s rest, s.pending = .reset :: rest →
    ∃ t, step s = .next t ∧ (∀ a, t.msg.read a = 0) ∧ t.msgValid = false ∧ t.batch = [] ∧
      t.errSticky = 0x0000 ∧ t.status = 0x00 ∧ t.res0 = 0 ∧ t.res1 = 0 ∧ t.vfind = 0 ∧ t.out = [] ∧
      t.params = s.params

/-- With no event issued the block stays as it is (R261, R271); the list of events is the model's (entry 1). -/
def Obligations.IdleStepKeepsEverything : Prop :=
  ∀ s, s.pending = [] → step s = .next s

/-- A step takes the first event the host has issued; when that is a command, it runs the decoded
instruction on the state that is left (`runCommand`, which also answers for an unassigned opcode). The
list of events is the model's (entry 1). -/
def Obligations.StepRunsDecodedCommand : Prop :=
  ∀ s c rest, s.pending = .command c :: rest →
    step s = runCommand c { s with pending := rest } ∧
    ∀ i, decode c = .ok i → step s = exec i { s with pending := rest }

/-- The bits handed to `withFetchWord` run next, on the state they were handed to (entry 2). -/
def Obligations.IssuedWordRunsNext : Prop :=
  ∀ s nbits w i, decodeTableWord nbits w = some i → step (s.withFetchWord nbits w) = exec i s

/-- R249: an unassigned opcode raises IllegalCommand and does nothing else, 242 opcodes are unassigned,
and a legal command ignores the operands it does not name. -/
def Obligations.UnassignedOpcodesAndUnusedOperands : Prop :=
  (∀ s c, c.opc ∉ assignedOpcodes → runCommand c s = .next (abortedWith 11 s)) ∧
  ((List.range 256).filter fun n => BitVec.ofNat 8 n ∉ assignedOpcodes).length = 242 ∧
  ∀ c d : Command, c.opc = d.opc →
    (c.opc ∈ [0x01#8, 0x02#8, 0x10#8, 0x31#8, 0x32#8] → c.arg0 = d.arg0) →
    (c.opc ∈ [0x01#8, 0x10#8, 0x32#8] → c.arg1 = d.arg1) →
    (c.opc = 0x10#8 → c.arg2 = d.arg2 ∧ c.arg3 = d.arg3 ∧ c.arg4 = d.arg4) →
    (c.opc ∈ [0x10#8, 0x11#8, 0x12#8, 0x33#8] → c.inp = d.inp) → decode c = decode d

/-- The opcode map of R83, opcode by opcode, for every operand. -/
def Obligations.OpcodeMapDecodes : Prop :=
  ∀ (a b c d e : Word32) (x : List Byte),
    decode ⟨0x01, a, b, c, d, e, x⟩ = .ok (.fieldRead a b) ∧
    decode ⟨0x02, a, b, c, d, e, x⟩ = .ok (.parity a) ∧
    decode ⟨0x10, a, b, c, d, e, x⟩ = .ok (.buildFields a b c d e x) ∧
    decode ⟨0x11, a, b, c, d, e, x⟩ = .ok (.buildTokens x) ∧
    decode ⟨0x12, a, b, c, d, e, x⟩ = .ok (.decodeBytes x) ∧
    decode ⟨0x13, a, b, c, d, e, x⟩ = .ok .validate ∧
    decode ⟨0x14, a, b, c, d, e, x⟩ = .ok .asBytes ∧
    decode ⟨0x15, a, b, c, d, e, x⟩ = .ok .display ∧
    decode ⟨0x16, a, b, c, d, e, x⟩ = .ok .decodeView ∧
    decode ⟨0x20, a, b, c, d, e, x⟩ = .ok .encodeSignal ∧
    decode ⟨0x30, a, b, c, d, e, x⟩ = .ok .batchClear ∧
    decode ⟨0x31, a, b, c, d, e, x⟩ = .ok (.batchAppend a) ∧
    decode ⟨0x32, a, b, c, d, e, x⟩ = .ok (.compose a b) ∧
    decode ⟨0x33, a, b, c, d, e, x⟩ = .ok (.packSamples x)

/-- Every instruction, with every operand and every IN, survives being written as a number and read back;
the numbering is the model's (entry 2), and operands not named are 0 (entry 11). -/
def Obligations.DecodeOfEncodedWordIsTheInstruction : Prop :=
  ∀ i : Instr, decodeTableWord (encode i).bits (encode i).toWord = some i

/-! ## What every command does and leaves alone -/

/-- No step stops the block: errors are status codes, and there is no trap (R240, R253). -/
def Obligations.EveryStepAnswersNextState : Prop :=
  ∀ s, ∃ t, step s = .next t

/-- R247: a command that ends with an error status leaves the state before it, the response registers
cleared, STATUS the code and its sticky bit set. -/
def Obligations.FailedCommandLeavesStateAsItWas : Prop :=
  ∀ c s t, runCommand c s = .next t → 0x10 ≤ t.status.toNat →
    t = abortedWith (t.status.toNat - 0x10) s

/-- R248: the ERR_STICKY update at the end of every command, and its clearing by reset alone. -/
def Obligations.StickyBitsAccumulateUntilReset : Prop :=
  (∀ c s t, runCommand c s = .next t →
    t.errSticky = s.errSticky |||
      (if 0x10 ≤ t.status.toNat then 1#16 <<< (t.status.toNat - 0x10)
       else if t.status = 0x01 then 0x8000#16 else 0#16)) ∧
  ∀ s rest t, s.pending = .reset :: rest → step s = .next t → t.errSticky = 0

/-- R241: the codes, and no other value in STATUS. -/
def Obligations.StatusHoldsOnlyListedCodes : Prop :=
  statusByte .ok = 0x00 ∧ statusByte .validationWarning = 0x01 ∧
  statusByte (.error .formatError) = 0x10 ∧ statusByte (.error .rangeError) = 0x11 ∧
  statusByte (.error .decodeError) = 0x12 ∧ statusByte (.error .bufferBoundsError) = 0x13 ∧
  statusByte (.error .layoutError) = 0x14 ∧ statusByte (.error .noMessage) = 0x15 ∧
  statusByte (.error .batchFull) = 0x16 ∧ statusByte (.error .emptyBatch) = 0x17 ∧
  statusByte (.error .offsetOrder) = 0x18 ∧ statusByte (.error .overrun) = 0x19 ∧
  statusByte (.error .capacityError) = 0x1A ∧ statusByte (.error .illegalCommand) = 0x1B ∧
  (∀ c s t, runCommand c s = .next t → t.status ∈ statusCodes) ∧
  stickyMask .ok = 0 ∧ stickyMask .validationWarning = 0x8000#16 ∧
  ∀ e, stickyMask (.error e) = 1#16 <<< ((statusByte (.error e)).toNat - 0x10)

/-- R34: MSG is replaced only by a constructor that completes, and by reset, and only as a whole: what it
becomes does not depend on what it was. -/
def Obligations.OnlyCompletedConstructorsReplaceMessage : Prop :=
  ∀ s t, step s = .next t →
    (t.msg = s.msg ∧ t.msgValid = s.msgValid) ∨
    (s.pending.head? = some .reset ∧ (∀ a, t.msg.read a = 0) ∧ t.msgValid = false) ∨
    ∃ c, s.pending.head? = some (.command c) ∧ c.opc ∈ [0x10#8, 0x11#8, 0x12#8] ∧
      t.msgValid = true ∧ (t.status = 0x00 ∨ t.status = 0x01) ∧
      ∀ m, ∃ u, runCommand c { s with pending := s.pending.tail, msg := m } = .next u ∧ u.msg = t.msg

/-- BATCH is written by BATCH_CLEAR, BATCH_APPEND and reset alone, and an entry is a copy of MSG (R35, R36). -/
def Obligations.OnlyBatchCommandsWriteBatch : Prop :=
  ∀ s t, step s = .next t →
    t.batch = s.batch ∨ (s.pending.head? = some .reset ∧ t.batch = []) ∨
    ∃ c, s.pending.head? = some (.command c) ∧
      ((c.opc = 0x30 ∧ t.batch = []) ∨
       (c.opc = 0x31 ∧ s.msgValid = true ∧ t.batch = s.batch ++ [⟨c.arg0, s.msg⟩]))

/-- R246: what a command that ends with ValidationWarning commits, and which commands can; what an
encode-path constructor commits has no finding. -/
def Obligations.WarningCommitsResultsWithFindings : Prop :=
  (∀ c s t, runCommand c s = .next t → t.status = 0x01 →
    t.res0 = 0 ∧ t.vfind = findings t.msg ∧ t.vfind ≠ 0 ∧ t.msgValid = true ∧
    t.errSticky = s.errSticky ||| 0x8000#16 ∧
    ((c.opc = 0x12 ∧ ∀ a, t.msg.read a = c.inp.getD a 0) ∨ (c.opc = 0x13 ∧ t.msg = s.msg))) ∧
  ∀ c s t, runCommand c s = .next t → c.opc ∈ [0x10#8, 0x11#8] → t.status = 0x00 → findings t.msg = 0

/-- What a command answers depends on MSG, MSG_VALID, BATCH, the parameters and the command, on no
earlier response (R42, R275). -/
def Obligations.ResponseIgnoresEarlierResponses : Prop :=
  ∀ c s s' t t', s.msg = s'.msg → s.msgValid = s'.msgValid → s.batch = s'.batch →
    s.params = s'.params → runCommand c s = .next t → runCommand c s' = .next t' →
    t.status = t'.status ∧ t.res0 = t'.res0 ∧ t.res1 = t'.res1 ∧ t.vfind = t'.vfind ∧ t.out = t'.out ∧
    t.msg = t'.msg ∧ t.msgValid = t'.msgValid ∧ t.batch = t'.batch

/-- Every step takes at most one event and changes no parameter (R47; entries 1 and 7). -/
def Obligations.StepTakesOneEventAndKeepsParameters : Prop :=
  ∀ s t, step s = .next t → t.pending = s.pending.tail ∧ t.params = s.params

/-- R243: the seven commands that read MSG raise NoMessage before any constructor has completed, and no
other command ever raises it. -/
def Obligations.NoMessageExactlyWhereMessageIsRead : Prop :=
  (∀ s o l ts, s.msgValid = false →
    exec (.fieldRead o l) s = .next (abortedWith 5 s) ∧ exec .validate s = .next (abortedWith 5 s) ∧
    exec .asBytes s = .next (abortedWith 5 s) ∧ exec .display s = .next (abortedWith 5 s) ∧
    exec .decodeView s = .next (abortedWith 5 s) ∧ exec .encodeSignal s = .next (abortedWith 5 s) ∧
    exec (.batchAppend ts) s = .next (abortedWith 5 s)) ∧
  ∀ c s t, runCommand c s = .next t → t.status = 0x15 →
    s.msgValid = false ∧ c.opc ∈ [0x01#8, 0x13#8, 0x14#8, 0x15#8, 0x16#8, 0x20#8, 0x31#8]

/-- Which command can end with which error (the command column of R242). -/
def Obligations.EachErrorComesFromItsCommands : Prop :=
  ∀ c s t, runCommand c s = .next t →
    (t.status = 0x10 → c.opc ∈ [0x10#8, 0x11#8, 0x33#8]) ∧ (t.status = 0x11 → c.opc ∈ [0x10#8, 0x11#8]) ∧
    (t.status = 0x12 → c.opc = 0x12) ∧ (t.status = 0x13 → c.opc = 0x01) ∧
    (t.status = 0x14 → c.opc = 0x01) ∧ (t.status = 0x16 → c.opc = 0x31) ∧
    (t.status = 0x17 → c.opc = 0x32) ∧ (t.status = 0x18 → c.opc = 0x32) ∧
    (t.status = 0x19 → c.opc = 0x32) ∧ (t.status = 0x1A → c.opc ∈ [0x20#8, 0x32#8, 0x33#8]) ∧
    (t.status = 0x1B → c.opc ∉ assignedOpcodes)

/-- The invariant holds after reset (the parameters there are the reference ones, the model's choice of
entry 3). -/
def Obligations.ResetMeetsInvariant : Prop := BlockInv State.reset

/-- Every step keeps the invariant (Safety.lean `BlockInv`: R33, R36, R35, R37, R38, R41). -/
def Obligations.EveryStepKeepsInvariant : Prop :=
  ∀ s t, BlockInv s → step s = .next t → BlockInv t

/-! ## Field access and parity -/

/-- A field is its message bits read most significant first, and a window past the buffer raises
BufferBoundsError (the spec infers it from R121, as its R122); the same for the field access that cannot
raise (entry 6), and the declared length is bits 34 to 41. -/
def Obligations.ReadFieldGivesMessageBits : Prop :=
  (∀ cap m l, 1 ≤ l.length → l.length ≤ 12 →
    readField cap m l =
      (if cap < l.offset / 8 + 4 then .error .bufferBoundsError
       else .ok (BitVec.ofNat 32 (bitsValue m l.offset l.length))) ∧
    getField m l = BitVec.ofNat 32 (bitsValue m l.offset l.length)) ∧
  ∀ m, dataLength m = bitsValue m 34 8

/-- A written field reads back as the value's low bits, and every other bit keeps its value (the spec
infers it from R121 and R123, as its R124). -/
def Obligations.WriteFieldChangesOnlyTheField : Prop :=
  ∀ cap m l v, m.wf → 1 ≤ l.length → l.length ≤ 12 → l.offset / 8 + 4 ≤ cap →
    ∃ m', writeField cap m l v = .ok m' ∧ m'.wf ∧
      readField cap m' l = .ok (BitVec.ofNat 32 (v.toNat % 2 ^ l.length)) ∧
      ∀ i, i < l.offset ∨ l.offset + l.length ≤ i → msgBit m' i = msgBit m i

/-- Writes to two fields with no bit in common commute, as data (the spec infers it from R123, as its R68). -/
def Obligations.WritesToDifferentFieldsCommute : Prop :=
  ∀ m k l v w, m.wf → 1 ≤ k.length → k.length ≤ 12 → 1 ≤ l.length → l.length ≤ 12 →
    (k.offset + k.length ≤ l.offset ∨ l.offset + l.length ≤ k.offset) →
    setField (setField m k v) l w = setField (setField m l w) k v

/-- R127: FIELD_READ, its three errors in order and its result. -/
def Obligations.FieldReadByRule : Prop :=
  ∀ o l s, exec (.fieldRead o l) s = .next (
    if s.msgValid = false then abortedWith 5 s
    else if l.toNat < 1 ∨ 12 < l.toNat then abortedWith 4 s
    else if s.params.msgCap < o.toNat / 8 + 4 then abortedWith 3 s
    else completedWith (BitVec.ofNat 32 (bitsValue s.msg o.toNat l.toNat)) 0 [] s)

/-- R128: PARITY, in every state. -/
def Obligations.ParityByRule : Prop :=
  ∀ v s, exec (.parity v) s = .next (completedWith (BitVec.ofNat 32 (popcount v % 2)) 0 [] s)

/-! ## The message codec -/

/-- R141: the encode-path writer. -/
def Obligations.EncodeFieldsWritesEachSuppliedField : Prop :=
  ∀ f : Supplied, (∀ x ∈ f.bcast, x.toNat ≤ 1) → (∀ x ∈ f.master, x.toNat ≤ 0xFFF) →
    (∀ x ∈ f.slave, x.toNat ≤ 0xFFF) → (∀ x ∈ f.control, x.toNat ≤ 0xF) →
    (∀ d ∈ f.data, d.length ≤ 64) → Encoded (encodeFields f) f

/-- R142: BUILD_FIELDS. -/
def Obligations.BuildFieldsByRule : Prop :=
  ∀ mask b m a c inp s, exec (.buildFields mask b m a c inp) s = .next (
    if mask.toNat / 2 ^ 5 ≠ 0 then abortedWith 0 s
    else if (mask.getLsbD 0 ∧ 1 < b.toNat) ∨ (mask.getLsbD 1 ∧ 0xFFF < m.toNat) ∨
        (mask.getLsbD 2 ∧ 0xFFF < a.toNat) ∨ (mask.getLsbD 3 ∧ 0xF < c.toNat) ∨
        (mask.getLsbD 4 ∧ 64 < inp.length) then abortedWith 1 s
    else completedWith (BitVec.ofNat 32 (if mask.getLsbD 4 then inp.length else 0)) 0 []
      { s with
        msg := encodeFields
          { bcast := if mask.getLsbD 0 then some b else none
            master := if mask.getLsbD 1 then some m else none
            slave := if mask.getLsbD 2 then some a else none
            control := if mask.getLsbD 3 then some c else none
            data := if mask.getLsbD 4 then some inp else none }
        msgValid := true })

/-- R144: BUILD_TOKENS. -/
def Obligations.BuildTokensByRule : Prop :=
  ∀ inp s tok, tok = tokens (inp.filter fun c => c ≠ 0x3A) →
    exec (.buildTokens inp) s = .next (
      if tok.length < 5 then abortedWith 0 s
      else if ∃ t ∈ tok.drop 1, isHex t = false then abortedWith 0 s
      else if 64 < tok.length - 3 then abortedWith 1 s
      else if 0xFFF < hexValue (tok.getD 1 []) ∨ 0xFFF < hexValue (tok.getD 2 []) ∨
          ∃ t ∈ tok.drop 3, 0xFF < hexValue t then abortedWith 1 s
      else completedWith (BitVec.ofNat 32 (tok.length - 3)) 0 []
        { s with
          msg := encodeFields
            { bcast := some (if tok.getD 0 [] = [0x42] then 0 else 1)
              master := some (BitVec.ofNat 32 (hexValue (tok.getD 1 [])))
              slave := some (BitVec.ofNat 32 (hexValue (tok.getD 2 [])))
              control := some 0xF
              data := some ((tok.drop 3).map fun t => BitVec.ofNat 8 (hexValue t)) }
          msgValid := true })

/-- R97: the tokens of a text of runs of other bytes between runs of whitespace are those runs, and
whitespace is the six bytes the rule names. -/
def Obligations.TokensAreTheRunsBetweenWhitespace : Prop :=
  (∀ c, isWhitespace c = true ↔ c ∈ [0x20#8, 0x09#8, 0x0A#8, 0x0B#8, 0x0C#8, 0x0D#8]) ∧
  ∀ (lead : List Byte) (runs : List (List Byte × List Byte)) (last : List Byte),
    (∀ c ∈ lead, isWhitespace c) →
    (∀ r ∈ runs, r.1 ≠ [] ∧ r.2 ≠ [] ∧ (∀ c ∈ r.1, isWhitespace c = false) ∧ ∀ c ∈ r.2, isWhitespace c) →
    (∀ c ∈ last, isWhitespace c = false) →
    tokens (lead ++ (runs.flatMap fun r => r.1 ++ r.2) ++ last) =
      runs.map (fun r => r.1) ++ if last = [] then [] else [last]

/-- R99, R100: a token is hexadecimal exactly when it is one or more of the 22 digit bytes; its value is
read most significant digit first, in either case; and the hexadecimal digits of a value, with any number
of leading zeros and in either case, are a hexadecimal token of that value. -/
def Obligations.HexTokensReadBack : Prop :=
  (∀ t, isHex t = true ↔ t ≠ [] ∧ ∀ c ∈ t,
    (0x30 ≤ c.toNat ∧ c.toNat ≤ 0x39) ∨ (0x41 ≤ c.toNat ∧ c.toNat ≤ 0x46) ∨
      (0x61 ≤ c.toNat ∧ c.toNat ≤ 0x66)) ∧
  hexValue [] = 0 ∧
  (∀ t c, isHex (t ++ [c]) = true →
    hexValue (t ++ [c]) = 16 * hexValue t +
      (if c.toNat ≤ 0x39 then c.toNat - 0x30
       else if c.toNat ≤ 0x46 then c.toNat - 0x41 + 10 else c.toNat - 0x61 + 10)) ∧
  ∀ n z v upper, 0 < n → v < 16 ^ n →
    upper = (hexDigits n v).map (fun c => if 0x61 ≤ c then c - 0x20 else c) →
    isHex (List.replicate z 0x30 ++ hexDigits n v) = true ∧
    hexValue (List.replicate z 0x30 ++ hexDigits n v) = v ∧
    isHex (List.replicate z 0x30 ++ upper) = true ∧
    hexValue (List.replicate z 0x30 ++ upper) = v ∧
    (hexDigits n v).length = n

/-- R146: DECODE_BYTES; the message is the copy of IN, zero past it. -/
def Obligations.DecodeBytesByRule : Prop :=
  ∀ inp s, ∃ w : Memory, w.wf ∧ (∀ a, w.read a = inp.getD a 0) ∧
    exec (.decodeBytes inp) s = .next (
      if inp.length < 6 then abortedWith 2 s
      else if 86 < inp.length then abortedWith 2 s
      else if 64 < bitsValue w 34 8 then abortedWith 2 s
      else if inp.length < (44 + 10 * bitsValue w 34 8 + 7) / 8 then abortedWith 2 s
      else judgedWith (findings w) { s with msg := w, msgValid := true })

/-- R147: the findings, one bit per parity check, none at or beyond the declared length. -/
def Obligations.FindingsNameTheMismatchedFields : Prop :=
  ∀ m, dataLength m ≤ 64 →
    ((findings m).getLsbD 0 = true ↔ bitsValue m 13 1 ≠ popcount (getField m MASTER) % 2) ∧
    ((findings m).getLsbD 1 = true ↔ bitsValue m 26 1 ≠ popcount (getField m SLAVE) % 2) ∧
    ((findings m).getLsbD 2 = true ↔ bitsValue m 32 1 ≠ popcount (getField m CTRL) % 2) ∧
    ((findings m).getLsbD 3 = true ↔ bitsValue m 42 1 ≠ popcount (getField m LEN) % 2) ∧
    ∀ i, (findings m).getLsbD (4 + i) = true ↔
      i < dataLength m ∧ bitsValue m (52 + 10 * i) 1 ≠ popcount (getField m (DATA i)) % 2

/-- R148: VALIDATE. -/
def Obligations.ValidateByRule : Prop :=
  ∀ s, exec .validate s = .next (
    if s.msgValid = false then abortedWith 5 s else judgedWith (findings s.msg) s)

/-- R149: AS_BYTES. -/
def Obligations.AsBytesByRule : Prop :=
  ∀ s nb, nb = (44 + 10 * bitsValue s.msg 34 8 + 7) / 8 → exec .asBytes s = .next (
    if s.msgValid = false then abortedWith 5 s
    else completedWith (BitVec.ofNat 32 nb) 0 ((List.range nb).map s.msg.read) s)

/-- R150: DISPLAY, in the format of R100; hexadecimal digits are lowercase and the length is right-aligned
in two characters. -/
def Obligations.DisplayByRule : Prop :=
  (∀ n v, (hexDigits n v).length = n ∧ ∀ k, k < n → ∃ d, d = v / 16 ^ (n - 1 - k) % 16 ∧
    (hexDigits n v)[k]? = some (BitVec.ofNat 8 (if d < 10 then 0x30 + d else 0x61 + (d - 10)))) ∧
  (∀ v, v < 10 → decimal2 v = [0x20, BitVec.ofNat 8 (0x30 + v)]) ∧
  (∀ v, 10 ≤ v → v < 100 →
    decimal2 v = [BitVec.ofNat 8 (0x30 + v / 10), BitVec.ofNat 8 (0x30 + v % 10)]) ∧
  ∀ s text,
    text = [if msgBit s.msg 0 then 0x2D else 0x42, 0x20] ++ hexDigits 3 (bitsValue s.msg 1 12) ++ [0x20] ++
      hexDigits 3 (bitsValue s.msg 14 12) ++ [0x20] ++ hexDigits 1 (bitsValue s.msg 28 4) ++ [0x20] ++
      decimal2 (bitsValue s.msg 34 8) ++ [0x20, 0x3A] ++
      (List.range (bitsValue s.msg 34 8)).flatMap
        (fun i => 0x20 :: hexDigits 2 (bitsValue s.msg (44 + 10 * i) 8)) →
    (exec .display s = .next (
      if s.msgValid = false then abortedWith 5 s
      else completedWith (BitVec.ofNat 32 text.length) 0 text s)) ∧
    (bitsValue s.msg 34 8 ≤ 64 → text.length ≤ 208)

/-- R151: DECODE_VIEW. -/
def Obligations.DecodeViewByRule : Prop :=
  ∀ s (raw adj : List Byte),
    raw = (List.range (bitsValue s.msg 34 8)).map
      (fun i => BitVec.ofNat 8 (bitsValue s.msg (44 + 10 * i) 8)) →
    adj = (if msgBit s.msg 0 then raw.tail else raw) →
    exec .decodeView s = .next (
      if s.msgValid = false then abortedWith 5 s
      else completedWith (BitVec.ofNat 32 (adj.getD 0 0).toNat) (BitVec.ofNat 32 (adj.getD 1 0).toNat)
        adj s)

/-- A message an encode-path constructor has built passes VALIDATE (the spec infers it from R141 and R147,
as its R152). -/
def Obligations.EncodePathMessagesValidate : Prop :=
  ∀ i s t, (∃ mask b m a c inp, i = .buildFields mask b m a c inp) ∨ (∃ inp, i = .buildTokens inp) →
    exec i s = .next t → t.status = 0x00 → exec .validate t = .next (judgedWith 0 t)

/-- AS_BYTES followed by DECODE_BYTES of its OUT, whatever message the block holds by then, completes and
reproduces MSG for every encode-path message, and for a decoded message without its trailing bytes; the
findings are the same again (the spec infers it from R146 and R149, as its R154). -/
def Obligations.AsBytesThenDecodeReproducesMessage : Prop :=
  ∀ i s₀ s, exec i s₀ = .next s → s.status.toNat < 0x10 →
    ((∃ mask b m a c inp, i = .buildFields mask b m a c inp) ∨ (∃ inp, i = .buildTokens inp) →
      ∃ t, exec .asBytes s = .next t ∧ findings s.msg = 0 ∧ ∀ r,
        exec (.decodeBytes t.out) r = .next (judgedWith 0 { r with msg := s.msg, msgValid := true })) ∧
    ∀ inp, i = .decodeBytes inp →
      ∃ (t : State) (w : Memory), exec .asBytes s = .next t ∧
        (∀ r, exec (.decodeBytes t.out) r =
          .next (judgedWith (findings s.msg) { r with msg := w, msgValid := true })) ∧
        (∀ a, w.read a = if a < (44 + 10 * dataLength s.msg + 7) / 8 then inp.getD a 0 else 0) ∧
        (inp.length = (44 + 10 * dataLength s.msg + 7) / 8 → w = s.msg)

/-- Reparsing a display string gives a message with two more data bytes, the control digit and the
decimal length read as hexadecimal (the spec infers it from R98 and R100, as its R101). -/
def Obligations.DisplayReparsesWithTwoMoreDataBytes : Prop :=
  ∀ s, s.msgValid = true → dataLength s.msg ≤ 62 →
    ∃ t u, exec .display s = .next t ∧ exec (.buildTokens t.out) t = .next u ∧ u.status = 0x00 ∧
      getField u.msg BCAST = getField s.msg BCAST ∧ getField u.msg MASTER = getField s.msg MASTER ∧
      getField u.msg SLAVE = getField s.msg SLAVE ∧ getField u.msg CTRL = 0xF ∧
      dataLength u.msg = dataLength s.msg + 2 ∧
      dataBytes u.msg = (getField s.msg CTRL).setWidth 8 ::
        BitVec.ofNat 8 (16 * (dataLength s.msg / 10) + dataLength s.msg % 10) :: dataBytes s.msg

/-! ## The line encoder and sample packing -/

/-- R200: the line signal, sample by sample, and its length. -/
def Obligations.LineSignalBySample : Prop :=
  ∀ m, (encodeLine m).length = 278 + 41 * (44 + 10 * dataLength m) ∧
    ∀ x, x < 278 + 41 * (44 + 10 * dataLength m) → (encodeLine m)[x]? = some (lineSample m x)

/-- The first LOW run is 40 samples when message bit 0 is 1 and 53 when it is 0 (the spec infers it from
R197 and R198, in its R201). -/
def Obligations.FirstLowRunMergesSynchronisation : Prop :=
  ∀ m, ∃ rest, encodeLine m = high 170 ++ low (if msgBit m 0 then 40 else 53) ++ .high :: rest

/-- R203: ENCODE_SIGNAL. -/
def Obligations.EncodeSignalByRule : Prop :=
  ∀ s n, n = 278 + 41 * (44 + 10 * bitsValue s.msg 34 8) → exec .encodeSignal s = .next (
    if s.msgValid = false then abortedWith 5 s
    else if s.params.outCap < (n + 7) / 8 then abortedWith 10 s
    else completedWith (BitVec.ofNat 32 n) 0 (pack (encodeLine s.msg)) s)

/-- R202: encoding a message as R33 has it never fails under the constraints of R9. -/
def Obligations.EncodeSignalNeverFails : Prop :=
  ∀ s, s.params.Legal → s.msgValid = true → dataLength s.msg ≤ 64 →
    ∃ t, exec .encodeSignal s = .next t ∧ t.status = 0x00 ∧ t.out.length ≤ 3541

/-- R226: output byte `j` holds samples `8j` to `8j+7`, the first in bit 7, padded with 1. -/
def Obligations.PackPutsFirstSampleInBitSeven : Prop :=
  ∀ x : List Sample, (pack x).length = (x.length + 7) / 8 ∧
    ∀ j q b, q < 8 → (pack x)[j]? = some b → (b.getLsbD (7 - q) = true ↔ x[8 * j + q]? ≠ some .low)

/-- R227: unpacking gives the samples back, then the padding. -/
def Obligations.UnpackUndoesPack : Prop :=
  ∀ x : List Sample, unpack (pack x) = x ++ high (8 * ((x.length + 7) / 8) - x.length)

/-- R228: PACK_SAMPLES. -/
def Obligations.PackSamplesByRule : Prop :=
  ∀ inp s, s.params.Legal → exec (.packSamples inp) s = .next (
    if ∃ c ∈ inp, c ≠ 0x30 ∧ c ≠ 0x31 then abortedWith 0 s
    else if s.params.outCap < (inp.length + 7) / 8 then abortedWith 10 s
    else completedWith (BitVec.ofNat 32 inp.length) 0
      (pack (inp.map fun c => if c = 0x30 then .low else .high)) s)

/-! ## The timeline composer -/

/-- R210: BATCH_CLEAR, in every state. -/
def Obligations.BatchClearByRule : Prop :=
  ∀ s, exec .batchClear s = .next (completedWith 0 0 [] { s with batch := [] })

/-- R211: BATCH_APPEND; RES0 is the new number of entries wherever that number fits in RES0 (beyond,
it is the free value of entry 4). -/
def Obligations.BatchAppendByRule : Prop :=
  ∀ ts s, ∃ n : Word32, (s.batch.length + 1 < 2 ^ 32 → n.toNat = s.batch.length + 1) ∧
    exec (.batchAppend ts) s = .next (
      if s.msgValid = false then abortedWith 5 s
      else if s.batch.length = s.params.maxBatch then abortedWith 6 s
      else completedWith n 0 [] { s with batch := s.batch ++ [⟨ts, s.msg⟩] })

/-- The errors of COMPOSE before its output is sized (R214, R217, R233). -/
def Obligations.ComposeRefusesEmptyUnorderedOverrun : Prop :=
  ∀ r g s,
    (s.batch = [] → exec (.compose r g) s = .next (abortedWith 7 s)) ∧
    (¬ Ordered r s.batch → exec (.compose r g) s = .next (abortedWith 8 s)) ∧
    (s.batch ≠ [] → Ordered r s.batch → ¬ NoOverrun r s.batch →
      exec (.compose r g) s = .next (abortedWith 9 s))

/-- R224: COMPOSE's result: the trimmed timeline between its guards, or CapacityError. -/
def Obligations.ComposeByRule : Prop :=
  ∀ r g s, s.params.Legal → s.batch ≠ [] → Ordered r s.batch → NoOverrun r s.batch →
    ∃ t u, IsTimeline r s.batch t ∧ IsTrimmed t u ∧
      exec (.compose r g) s = .next (
        if s.params.outCap < (g.toNat + 20000 + u.length + 7) / 8 then abortedWith 10 s
        else completedWith (BitVec.ofNat 32 (g.toNat + 20000 + u.length)) (BitVec.ofNat 32 u.length)
          (pack (high g.toNat ++ high 10000 ++ u ++ high 10000)) s)

/-- Trimming removes exactly the idle ends (R220), and a composed timeline is never all idle (which the
spec infers from R197). -/
def Obligations.TrimLeavesLowAtBothEnds : Prop :=
  (∀ t : List Sample, .low ∈ t → IsTrimmed t (trim t)) ∧
  ∀ r b e, b[0]? = some e → NoOverrun r b → Ordered r b →
    .low ∈ composeTimeline (timelineLength r (placements r e.ts b)) (placements r e.ts b)

/-- R230: `G` glitch samples add exactly `G` idle samples in front. -/
def Obligations.GlitchAddsIdleSamplesInFront : Prop :=
  ∀ r g s t₀ t, s.params.Legal → exec (.compose r 0) s = .next t₀ → exec (.compose r g) s = .next t →
    t₀.status = 0x00 → t.status = 0x00 →
    t.res0.toNat = t₀.res0.toNat + g.toNat ∧ t.res1 = t₀.res1 ∧
    ∃ rest, unpack t.out = high (g.toNat + 10000) ++ rest

/-- R231: regular placement and the timeline length. -/
def Obligations.RegularIntervalPlacesAtMultiples : Prop :=
  ∀ r ts b, r ≠ 0 →
    (placements r ts b).map (fun p => p.off) = (List.range b.length).map (fun i => i * r.toNat) ∧
    (placements r ts b).map (fun p => p.sig) = b.map (fun e => encodeLine e.msg) ∧
    timelineLength r (placements r ts b) = b.length * r.toNat ∧
    (NoOverrun r b →
      (trim (composeTimeline (b.length * r.toNat) (placements r ts b))).length ≤ b.length * r.toNat)

/-- Raising every timestamp by the same amount changes nothing COMPOSE answers (the first sentence of R232, which the spec infers from R214). -/
def Obligations.CaptureTimestampsMatterOnlyRelatively : Prop :=
  ∀ c g s t t', (∀ e ∈ s.batch, e.ts.toNat + c < 2 ^ 32) →
    exec (.compose 0 g) s = .next t → exec (.compose 0 g) (shifted c s) = .next t' →
    t'.hostView = t.hostView

/-- COMPOSE's output begins with exactly `G + 10000` HIGH samples before the first LOW and ends with
10000; its last 1250 bytes are 0xFF (R279, and R232, which the spec infers from R224). -/
def Obligations.ComposedOutputIsGuarded : Prop :=
  ∀ r g s t, exec (.compose r g) s = .next t → t.status = 0x00 →
    (∃ rest, unpack t.out = high (g.toNat + 10000) ++ .low :: rest) ∧
    (∃ front, unpack t.out = front ++ high 10000) ∧
    (∀ j, j < (g.toNat + 10000) / 8 → t.out[j]? = some 0xFF) ∧
    ∀ j b, t.out.length ≤ j + 1250 → t.out[j]? = some b → b = 0xFF

/-- An interval of 28322 samples or more avoids overlap and Overrun for every batch (R276, a consequence of
R200, R215 and R217). -/
def Obligations.LongIntervalNeverOverlaps : Prop :=
  ∀ r g s, 28322 ≤ r.toNat → (∀ e ∈ s.batch, dataLength e.msg ≤ 64) → s.batch ≠ [] →
    (∀ i j, i < j → j < s.batch.length → offsetOf r s.batch i + signalLength s.batch i ≤ offsetOf r s.batch j) ∧
    ∃ t, exec (.compose r g) s = .next t ∧ t.status ≠ 0x18 ∧ t.status ≠ 0x19

/-- SINGLE, for a message whose last bit is 1 and whose output fits (R225; its parenthesis on encode-path
messages is entry 14). -/
def Obligations.SingleMessageModeLength : Prop :=
  ∀ s n, s.params.Legal → s.msgValid = true → n = 44 + 10 * dataLength s.msg →
    msgBit s.msg (n - 1) = true → (41 * n - 1 + 20000 + 7) / 8 ≤ s.params.outCap →
    ∃ t u, runAll pseudoSingle s = some t ∧ t.status = 0x00 ∧ t.batch = [⟨0, s.msg⟩] ∧
      t.res1 = BitVec.ofNat 32 (41 * n - 1) ∧ t.res0 = BitVec.ofNat 32 (41 * n - 1 + 20000) ∧
      encodeLine s.msg = high 170 ++ u ++ high 109 ∧
      t.out = pack (high 10000 ++ u ++ high 10000)

/-! ## The named layouts -/

/-- The named field layouts lie where the spec's table has them (the spec infers it from R89 and R90, as its
R92). -/
def Obligations.NamedLayoutsByTable : Prop :=
  BCAST = ⟨0, 1⟩ ∧ MASTER = ⟨1, 12⟩ ∧ MASTER_P = ⟨13, 1⟩ ∧ SLAVE = ⟨14, 12⟩ ∧ SLAVE_P = ⟨26, 1⟩ ∧
  SLAVE_A = ⟨27, 1⟩ ∧ CTRL = ⟨28, 4⟩ ∧ CTRL_P = ⟨32, 1⟩ ∧ CTRL_A = ⟨33, 1⟩ ∧ LEN = ⟨34, 8⟩ ∧
  LEN_P = ⟨42, 1⟩ ∧ LEN_A = ⟨43, 1⟩ ∧
  ∀ i, DATA i = ⟨44 + 10 * i, 8⟩ ∧ DATA_P i = ⟨52 + 10 * i, 1⟩ ∧ DATA_A i = ⟨53 + 10 * i, 1⟩
end

