-- ==== Sys2Proof/Laws/Memory.lean ====
section
/-! SUPPORT. The message buffer: reading after writing, the canonical form kept by every operation, and
equality of canonical buffers from equality of their bytes. -/

namespace Sys2Proof.Machine

@[simp] theorem read_nil (a : Nat) : Memory.read [] a = unwritten := rfl

theorem read_cons (c : Host.Cell) (m : Memory) (a : Nat) :
    Memory.read (c :: m) a = if a = c.1 then c.2 else Memory.read m a := rfl

/-- An address below every listed one reads as unwritten. -/
theorem read_below (m : Memory) (a : Nat) (h : ∀ c ∈ m, a < c.1) : m.read a = unwritten := by
  induction m with
  | nil => rfl
  | cons c m ih =>
    have hc : a ≠ c.1 := Nat.ne_of_lt (h c List.mem_cons_self)
    rw [read_cons, if_neg hc]
    exact ih fun d hd => h d (List.mem_cons_of_mem _ hd)

theorem read_cell_append (a b : Nat) (v : Byte) (m : Memory) (h : ∀ c ∈ m, a < c.1) :
    Memory.read (cell a v ++ m) b = if b = a then v else m.read b := by
  by_cases hv : v = unwritten
  · simp only [cell, if_pos hv, List.nil_append]
    split
    · next hb => rw [hb, hv, read_below m a h]
    · rfl
  · simp only [cell, if_neg hv, List.cons_append, List.nil_append, read_cons]

/-- A canonical list: its head, its tail, and the head below the tail. -/
theorem wf_cons (c : Host.Cell) (m : Memory) :
    Memory.wf (c :: m) ↔ c.2 ≠ unwritten ∧ (∀ d ∈ m, c.1 < d.1) ∧ Memory.wf m := by
  simp only [Memory.wf, List.pairwise_cons, List.mem_cons, forall_eq_or_imp]
  tauto

theorem wf_nil : Memory.wf [] := by simp [Memory.wf]

theorem wf_cell_append (a : Nat) (v : Byte) (m : Memory) (h : ∀ c ∈ m, a < c.1) (hm : m.wf) :
    Memory.wf (cell a v ++ m) := by
  by_cases hv : v = unwritten
  · simpa [cell, hv] using hm
  · rw [cell, if_neg hv]
    exact (wf_cons _ _).2 ⟨hv, h, hm⟩

/-- Every address a write leaves listed was listed before or is the one written. -/
theorem mem_write (m : Memory) (a : Nat) (v : Byte) (c : Host.Cell) (hc : c ∈ m.write a v) :
    c.1 = a ∨ c ∈ m := by
  induction m with
  | nil =>
    simp only [Memory.write, cell] at hc
    split at hc <;> simp_all
  | cons d m ih =>
    simp only [Memory.write, cell] at hc
    split at hc
    · split at hc <;> simp_all
      rcases hc with rfl | h <;> simp_all
    · split at hc
      · split at hc <;> simp_all
        rcases hc with rfl | h <;> simp_all
      · simp only [List.mem_cons] at hc ⊢
        rcases hc with h | h
        · exact .inr (.inl h)
        · exact (ih h).imp id .inr

/-- What a byte reads as after a write: the value written there, everything else as before. -/
theorem read_write (m : Memory) (hm : m.wf) (a b : Nat) (v : Byte) :
    (m.write a v).read b = if b = a then v else m.read b := by
  induction m with
  | nil => simpa [Memory.write] using read_cell_append a b v [] (by simp)
  | cons d m ih =>
    obtain ⟨-, hd, hm'⟩ := (wf_cons d m).1 hm
    simp only [Memory.write]
    split
    · next h =>
      refine read_cell_append a b v _ fun c hc => ?_
      rcases List.mem_cons.1 hc with rfl | hc
      · exact h
      · exact h.trans (hd c hc)
    · next h =>
      split
      · next e =>
        subst e
        rw [read_cell_append _ b v m hd, read_cons]
        split <;> rfl
      · next e =>
        rw [read_cons, read_cons, ih hm']
        split <;> split <;> simp_all

theorem read_write_same (m : Memory) (hm : m.wf) (a : Nat) (v : Byte) : (m.write a v).read a = v := by
  simp [read_write m hm]

theorem read_write_other (m : Memory) (hm : m.wf) (a b : Nat) (v : Byte) (h : b ≠ a) :
    (m.write a v).read b = m.read b := by
  simp [read_write m hm, h]

/-- A write keeps the canonical form. -/
theorem write_wf (m : Memory) (hm : m.wf) (a : Nat) (v : Byte) : (m.write a v).wf := by
  induction m with
  | nil => simpa [Memory.write] using wf_cell_append a v [] (by simp) wf_nil
  | cons d m ih =>
    obtain ⟨hv, hd, hm'⟩ := (wf_cons d m).1 hm
    simp only [Memory.write]
    split
    · next h =>
      refine wf_cell_append a v _ (fun c hc => ?_) hm
      rcases List.mem_cons.1 hc with rfl | hc
      · exact h
      · exact h.trans (hd c hc)
    · next h =>
      split
      · next e => exact wf_cell_append a v m (e ▸ hd) hm'
      · next e =>
        refine (wf_cons _ _).2 ⟨hv, fun c hc => ?_, ih hm'⟩
        rcases mem_write m a v c hc with rfl | hc
        · omega
        · exact hd c hc

/-- Two canonical buffers that read the same everywhere are the same data. -/
theorem wf_ext (m n : Memory) (hm : m.wf) (hn : n.wf) (h : ∀ a, m.read a = n.read a) : m = n := by
  induction m generalizing n with
  | nil =>
    cases n with
    | nil => rfl
    | cons d n =>
      have := h d.1
      simp only [read_nil, read_cons, if_true] at this
      exact absurd this.symm ((wf_cons d n).1 hn).1
  | cons c m ih =>
    obtain ⟨hc, hcm, hm'⟩ := (wf_cons c m).1 hm
    cases n with
    | nil =>
      have := h c.1
      simp only [read_nil, read_cons, if_true] at this
      exact absurd this hc
    | cons d n =>
      obtain ⟨hd, hdn, hn'⟩ := (wf_cons d n).1 hn
      have hkey : c.1 = d.1 := by
        rcases Nat.lt_trichotomy c.1 d.1 with hlt | heq | hgt
        · have := h c.1
          rw [read_below (d :: n) c.1 (by
            intro e he
            rcases List.mem_cons.1 he with rfl | he
            · exact hlt
            · exact hlt.trans (hdn e he)), read_cons, if_pos rfl] at this
          exact absurd this hc
        · exact heq
        · have := h d.1
          rw [read_below (c :: m) d.1 (by
            intro e he
            rcases List.mem_cons.1 he with rfl | he
            · exact hgt
            · exact hgt.trans (hcm e he)), read_cons, if_pos rfl] at this
          exact absurd this.symm hd
      have hval : c.2 = d.2 := by
        have := h c.1
        rwa [read_cons, read_cons, if_pos rfl, if_pos hkey] at this
      have htail : m = n := by
        refine ih n hm' hn' fun a => ?_
        have := h a
        rw [read_cons, read_cons] at this
        by_cases ha : a = c.1
        · subst ha
          rw [read_below m _ hcm, read_below n _ (hkey ▸ hdn)]
        · rwa [if_neg ha, if_neg (hkey ▸ ha)] at this
      rw [htail, Prod.ext hkey hval]

theorem mem_ofBytesFrom (a : Nat) (bytes : List Byte) (c : Host.Cell)
    (hc : c ∈ Memory.ofBytesFrom a bytes) : a ≤ c.1 ∧ c.1 < a + bytes.length := by
  induction bytes generalizing a with
  | nil => simp [Memory.ofBytesFrom] at hc
  | cons v bytes ih =>
    simp only [Memory.ofBytesFrom, List.mem_append] at hc
    rcases hc with hc | hc
    · simp only [cell] at hc
      split at hc <;> simp_all
    · have := ih (a + 1) hc
      simp only [List.length_cons]
      omega

theorem ofBytesFrom_above (a : Nat) (bytes : List Byte) :
    ∀ c ∈ Memory.ofBytesFrom (a + 1) bytes, a < c.1 :=
  fun c hc => (mem_ofBytesFrom (a + 1) bytes c hc).1

/-- The copy of a byte string is canonical. -/
theorem ofBytesFrom_wf (a : Nat) (bytes : List Byte) : (Memory.ofBytesFrom a bytes).wf := by
  induction bytes generalizing a with
  | nil => exact wf_nil
  | cons v bytes ih => exact wf_cell_append a v _ (ofBytesFrom_above a bytes) (ih (a + 1))

theorem ofBytes_wf (bytes : List Byte) : (Memory.ofBytes bytes).wf := ofBytesFrom_wf 0 bytes

theorem read_ofBytesFrom (a b : Nat) (bytes : List Byte) :
    (Memory.ofBytesFrom a bytes).read b = if b < a then unwritten else bytes.getD (b - a) unwritten := by
  induction bytes generalizing a with
  | nil => simp [Memory.ofBytesFrom]
  | cons v bytes ih =>
    rw [Memory.ofBytesFrom, read_cell_append a b v _ (ofBytesFrom_above a bytes), ih]
    rcases Nat.lt_trichotomy b a with h | h | h
    · simp [h, Nat.ne_of_lt h, show b < a + 1 by omega]
    · simp [h]
    · obtain ⟨k, rfl⟩ : ∃ k, b = a + 1 + k := ⟨b - (a + 1), by omega⟩
      rw [if_neg (by omega), if_neg (by omega), if_neg (by omega), Nat.add_sub_cancel_left,
        show a + 1 + k - a = k + 1 by omega, List.getD_cons_succ]

/-- The copy of a byte string holds its bytes, then zeros. -/
theorem read_ofBytes (bytes : List Byte) (a : Nat) :
    (Memory.ofBytes bytes).read a = bytes.getD a unwritten := by
  simp [Memory.ofBytes, read_ofBytesFrom]

theorem setWindow_wf (m : Memory) (hm : m.wf) (b : Nat) (w : Word32) : (setWindow m b w).wf :=
  write_wf _ (write_wf _ (write_wf _ (write_wf _ hm _ _) _ _) _ _) _ _

/-- A byte after a window write: one of the window's four, or as before. -/
theorem read_setWindow (m : Memory) (hm : m.wf) (b : Nat) (w : Word32) (a : Nat) :
    (setWindow m b w).read a =
      if a = b then w.extractLsb' 24 8
      else if a = b + 1 then w.extractLsb' 16 8
      else if a = b + 2 then w.extractLsb' 8 8
      else if a = b + 3 then w.extractLsb' 0 8
      else m.read a := by
  have h1 := write_wf m hm b (w.extractLsb' 24 8)
  have h2 := write_wf _ h1 (b + 1) (w.extractLsb' 16 8)
  have h3 := write_wf _ h2 (b + 2) (w.extractLsb' 8 8)
  rw [setWindow, read_write _ h3, read_write _ h2, read_write _ h1, read_write _ hm]
  by_cases e0 : a = b
  · simp [e0]
  · by_cases e1 : a = b + 1
    · simp [e1]
    · by_cases e2 : a = b + 2
      · simp [e2]
      · simp [e0, e1, e2]

/-- A listed address after a window write is one of the four or was listed before. -/
theorem mem_setWindow (m : Memory) (b : Nat) (w : Word32) (c : Host.Cell)
    (hc : c ∈ setWindow m b w) : (b ≤ c.1 ∧ c.1 ≤ b + 3) ∨ c ∈ m := by
  rcases mem_write _ _ _ _ hc with h | hc
  · exact .inl (by omega)
  rcases mem_write _ _ _ _ hc with h | hc
  · exact .inl (by omega)
  rcases mem_write _ _ _ _ hc with h | hc
  · exact .inl (by omega)
  rcases mem_write _ _ _ _ hc with h | hc
  · exact .inl (by omega)
  · exact .inr hc

theorem setField_wf (m : Memory) (hm : m.wf) (l : FieldLayout) (v : Word32) : (setField m l v).wf :=
  setWindow_wf m hm _ _

theorem setWithParity_wf (f p : FieldLayout) (m : Memory) (hm : m.wf) (v : Word32) :
    (setWithParity f p m v).wf :=
  setField_wf _ (setField_wf m hm f v) p _

theorem setWithParityAck_wf (f p k : FieldLayout) (m : Memory) (hm : m.wf) (v : Word32) :
    (setWithParityAck f p k m v).wf :=
  setField_wf _ (setWithParity_wf f p m hm v) k _

theorem setDataUnits_wf (d : List Byte) (m : Memory) (hm : m.wf) (i : Nat) : (setDataUnits m i d).wf := by
  induction d generalizing m i with
  | nil => exact hm
  | cons v d ih => exact ih _ (setWithParityAck_wf _ _ _ m hm _) _

theorem setData_wf (m : Memory) (hm : m.wf) (d : Option (List Byte)) : (setData m d).wf := by
  cases d with
  | none => exact hm
  | some d => exact setDataUnits_wf d _ (setWithParityAck_wf _ _ _ m hm _) 0

theorem setIfSupplied_wf (m : Memory) (hm : m.wf) (v : Option Word32) (f : Memory → Word32 → Memory)
    (hf : ∀ m x, m.wf → (f m x).wf) : (setIfSupplied m v f).wf := by
  cases v with
  | none => exact hm
  | some x => exact hf m x hm

/-- The encode path builds a canonical buffer. -/
theorem encodeFields_wf (f : Supplied) : (encodeFields f).wf := by
  refine setData_wf _ ?_ _
  refine setIfSupplied_wf _ ?_ _ _ fun m x hm => setWithParityAck_wf _ _ _ m hm x
  refine setIfSupplied_wf _ ?_ _ _ fun m x hm => setWithParityAck_wf _ _ _ m hm x
  refine setIfSupplied_wf _ ?_ _ _ fun m x hm => setWithParity_wf _ _ m hm x
  exact setIfSupplied_wf _ wf_nil _ _ fun m x hm => setField_wf m hm _ x

/-- `readField` inside the buffer is the unchecked access (R245). -/
theorem readField_inside (cap : Nat) (m : Memory) (l : FieldLayout) (h : windowByte l + 4 ≤ cap) :
    readField cap m l = .ok (getField m l) := by
  simp [readField, memRead, getField, Nat.not_lt.2 h]

theorem readField_outside (cap : Nat) (m : Memory) (l : FieldLayout) (h : cap < windowByte l + 4) :
    readField cap m l = .error .bufferBoundsError := by
  simp [readField, memRead, h]

/-- `writeField` inside the buffer is the unchecked access (R245). -/
theorem writeField_inside (cap : Nat) (m : Memory) (l : FieldLayout) (v : Word32)
    (h : windowByte l + 4 ≤ cap) : writeField cap m l v = .ok (setField m l v) := by
  simp [writeField, memRead, memWrite, setField, Nat.not_lt.2 h]

theorem writeField_outside (cap : Nat) (m : Memory) (l : FieldLayout) (v : Word32)
    (h : cap < windowByte l + 4) : writeField cap m l v = .error .bufferBoundsError := by
  simp [writeField, memRead, h]

theorem bytes_length (m : Memory) (a n : Nat) : (m.bytes a n).length = n := by simp [Memory.bytes]

theorem bytes_getD (m : Memory) (a n j : Nat) (h : j < n) : (m.bytes a n).getD j 0 = m.read (a + j) := by
  simp [Memory.bytes, h]

end Sys2Proof.Machine
end

