-- ==== Sys2Proof/Laws/State.lean ====
section
/-! SUPPORT. One lemma per field per update of State, each true by rfl. -/

namespace Sys2Proof.Machine

@[simp] theorem setResponse_msg (s : State) (r : Response) : (s.setResponse r).msg = s.msg := rfl
@[simp] theorem setResponse_msgValid (s : State) (r : Response) : (s.setResponse r).msgValid = s.msgValid := rfl
@[simp] theorem setResponse_batch (s : State) (r : Response) : (s.setResponse r).batch = s.batch := rfl
@[simp] theorem setResponse_errSticky (s : State) (r : Response) : (s.setResponse r).errSticky = s.errSticky := rfl
@[simp] theorem setResponse_status (s : State) (r : Response) : (s.setResponse r).status = s.status := rfl
@[simp] theorem setResponse_res0 (s : State) (r : Response) : (s.setResponse r).res0 = r.res0 := rfl
@[simp] theorem setResponse_res1 (s : State) (r : Response) : (s.setResponse r).res1 = r.res1 := rfl
@[simp] theorem setResponse_vfind (s : State) (r : Response) : (s.setResponse r).vfind = r.vfind := rfl
@[simp] theorem setResponse_out (s : State) (r : Response) : (s.setResponse r).out = r.out := rfl
@[simp] theorem setResponse_params (s : State) (r : Response) : (s.setResponse r).params = s.params := rfl
@[simp] theorem setResponse_pending (s : State) (r : Response) : (s.setResponse r).pending = s.pending := rfl

@[simp] theorem beginCommand_msg (s : State) : s.beginCommand.msg = s.msg := rfl
@[simp] theorem beginCommand_msgValid (s : State) : s.beginCommand.msgValid = s.msgValid := rfl
@[simp] theorem beginCommand_batch (s : State) : s.beginCommand.batch = s.batch := rfl
@[simp] theorem beginCommand_errSticky (s : State) : s.beginCommand.errSticky = s.errSticky := rfl
@[simp] theorem beginCommand_status (s : State) : s.beginCommand.status = s.status := rfl
@[simp] theorem beginCommand_res0 (s : State) : s.beginCommand.res0 = 0 := rfl
@[simp] theorem beginCommand_res1 (s : State) : s.beginCommand.res1 = 0 := rfl
@[simp] theorem beginCommand_vfind (s : State) : s.beginCommand.vfind = 0 := rfl
@[simp] theorem beginCommand_out (s : State) : s.beginCommand.out = [] := rfl
@[simp] theorem beginCommand_params (s : State) : s.beginCommand.params = s.params := rfl
@[simp] theorem beginCommand_pending (s : State) : s.beginCommand.pending = s.pending := rfl

@[simp] theorem endCommand_msg (s : State) (code : StatusCode) : (s.endCommand code).msg = s.msg := rfl
@[simp] theorem endCommand_msgValid (s : State) (code : StatusCode) : (s.endCommand code).msgValid = s.msgValid := rfl
@[simp] theorem endCommand_batch (s : State) (code : StatusCode) : (s.endCommand code).batch = s.batch := rfl
@[simp] theorem endCommand_errSticky (s : State) (code : StatusCode) : (s.endCommand code).errSticky = s.errSticky ||| stickyMask code := rfl
@[simp] theorem endCommand_status (s : State) (code : StatusCode) : (s.endCommand code).status = statusByte code := rfl
@[simp] theorem endCommand_res0 (s : State) (code : StatusCode) : (s.endCommand code).res0 = s.res0 := rfl
@[simp] theorem endCommand_res1 (s : State) (code : StatusCode) : (s.endCommand code).res1 = s.res1 := rfl
@[simp] theorem endCommand_vfind (s : State) (code : StatusCode) : (s.endCommand code).vfind = s.vfind := rfl
@[simp] theorem endCommand_out (s : State) (code : StatusCode) : (s.endCommand code).out = s.out := rfl
@[simp] theorem endCommand_params (s : State) (code : StatusCode) : (s.endCommand code).params = s.params := rfl
@[simp] theorem endCommand_pending (s : State) (code : StatusCode) : (s.endCommand code).pending = s.pending := rfl

@[simp] theorem commitMessage_msg (s : State) (w : Memory) : (s.commitMessage w).msg = w := rfl
@[simp] theorem commitMessage_msgValid (s : State) (w : Memory) : (s.commitMessage w).msgValid = true := rfl
@[simp] theorem commitMessage_batch (s : State) (w : Memory) : (s.commitMessage w).batch = s.batch := rfl
@[simp] theorem commitMessage_errSticky (s : State) (w : Memory) : (s.commitMessage w).errSticky = s.errSticky := rfl
@[simp] theorem commitMessage_status (s : State) (w : Memory) : (s.commitMessage w).status = s.status := rfl
@[simp] theorem commitMessage_res0 (s : State) (w : Memory) : (s.commitMessage w).res0 = s.res0 := rfl
@[simp] theorem commitMessage_res1 (s : State) (w : Memory) : (s.commitMessage w).res1 = s.res1 := rfl
@[simp] theorem commitMessage_vfind (s : State) (w : Memory) : (s.commitMessage w).vfind = s.vfind := rfl
@[simp] theorem commitMessage_out (s : State) (w : Memory) : (s.commitMessage w).out = s.out := rfl
@[simp] theorem commitMessage_params (s : State) (w : Memory) : (s.commitMessage w).params = s.params := rfl
@[simp] theorem commitMessage_pending (s : State) (w : Memory) : (s.commitMessage w).pending = s.pending := rfl

@[simp] theorem setBatch_msg (s : State) (b : List BatchEntry) : (s.setBatch b).msg = s.msg := rfl
@[simp] theorem setBatch_msgValid (s : State) (b : List BatchEntry) : (s.setBatch b).msgValid = s.msgValid := rfl
@[simp] theorem setBatch_batch (s : State) (b : List BatchEntry) : (s.setBatch b).batch = b := rfl
@[simp] theorem setBatch_errSticky (s : State) (b : List BatchEntry) : (s.setBatch b).errSticky = s.errSticky := rfl
@[simp] theorem setBatch_status (s : State) (b : List BatchEntry) : (s.setBatch b).status = s.status := rfl
@[simp] theorem setBatch_res0 (s : State) (b : List BatchEntry) : (s.setBatch b).res0 = s.res0 := rfl
@[simp] theorem setBatch_res1 (s : State) (b : List BatchEntry) : (s.setBatch b).res1 = s.res1 := rfl
@[simp] theorem setBatch_vfind (s : State) (b : List BatchEntry) : (s.setBatch b).vfind = s.vfind := rfl
@[simp] theorem setBatch_out (s : State) (b : List BatchEntry) : (s.setBatch b).out = s.out := rfl
@[simp] theorem setBatch_params (s : State) (b : List BatchEntry) : (s.setBatch b).params = s.params := rfl
@[simp] theorem setBatch_pending (s : State) (b : List BatchEntry) : (s.setBatch b).pending = s.pending := rfl

@[simp] theorem setPending_msg (s : State) (rest : List HostEvent) : (s.setPending rest).msg = s.msg := rfl
@[simp] theorem setPending_msgValid (s : State) (rest : List HostEvent) : (s.setPending rest).msgValid = s.msgValid := rfl
@[simp] theorem setPending_batch (s : State) (rest : List HostEvent) : (s.setPending rest).batch = s.batch := rfl
@[simp] theorem setPending_errSticky (s : State) (rest : List HostEvent) : (s.setPending rest).errSticky = s.errSticky := rfl
@[simp] theorem setPending_status (s : State) (rest : List HostEvent) : (s.setPending rest).status = s.status := rfl
@[simp] theorem setPending_res0 (s : State) (rest : List HostEvent) : (s.setPending rest).res0 = s.res0 := rfl
@[simp] theorem setPending_res1 (s : State) (rest : List HostEvent) : (s.setPending rest).res1 = s.res1 := rfl
@[simp] theorem setPending_vfind (s : State) (rest : List HostEvent) : (s.setPending rest).vfind = s.vfind := rfl
@[simp] theorem setPending_out (s : State) (rest : List HostEvent) : (s.setPending rest).out = s.out := rfl
@[simp] theorem setPending_params (s : State) (rest : List HostEvent) : (s.setPending rest).params = s.params := rfl
@[simp] theorem setPending_pending (s : State) (rest : List HostEvent) : (s.setPending rest).pending = rest := rfl

@[simp] theorem issue_msg (s : State) (e : HostEvent) : (s.issue e).msg = s.msg := rfl
@[simp] theorem issue_msgValid (s : State) (e : HostEvent) : (s.issue e).msgValid = s.msgValid := rfl
@[simp] theorem issue_batch (s : State) (e : HostEvent) : (s.issue e).batch = s.batch := rfl
@[simp] theorem issue_errSticky (s : State) (e : HostEvent) : (s.issue e).errSticky = s.errSticky := rfl
@[simp] theorem issue_status (s : State) (e : HostEvent) : (s.issue e).status = s.status := rfl
@[simp] theorem issue_res0 (s : State) (e : HostEvent) : (s.issue e).res0 = s.res0 := rfl
@[simp] theorem issue_res1 (s : State) (e : HostEvent) : (s.issue e).res1 = s.res1 := rfl
@[simp] theorem issue_vfind (s : State) (e : HostEvent) : (s.issue e).vfind = s.vfind := rfl
@[simp] theorem issue_out (s : State) (e : HostEvent) : (s.issue e).out = s.out := rfl
@[simp] theorem issue_params (s : State) (e : HostEvent) : (s.issue e).params = s.params := rfl
@[simp] theorem issue_pending (s : State) (e : HostEvent) : (s.issue e).pending = e :: s.pending := rfl

@[simp] theorem resetWith_msg (p : Params) : (State.resetWith p).msg = [] := rfl
@[simp] theorem resetWith_msgValid (p : Params) : (State.resetWith p).msgValid = false := rfl
@[simp] theorem resetWith_batch (p : Params) : (State.resetWith p).batch = [] := rfl
@[simp] theorem resetWith_errSticky (p : Params) : (State.resetWith p).errSticky = 0 := rfl
@[simp] theorem resetWith_status (p : Params) : (State.resetWith p).status = 0 := rfl
@[simp] theorem resetWith_res0 (p : Params) : (State.resetWith p).res0 = 0 := rfl
@[simp] theorem resetWith_res1 (p : Params) : (State.resetWith p).res1 = 0 := rfl
@[simp] theorem resetWith_vfind (p : Params) : (State.resetWith p).vfind = 0 := rfl
@[simp] theorem resetWith_out (p : Params) : (State.resetWith p).out = [] := rfl
@[simp] theorem resetWith_params (p : Params) : (State.resetWith p).params = p := rfl
@[simp] theorem resetWith_pending (p : Params) : (State.resetWith p).pending = [] := rfl

@[simp] theorem takeReset_msg (s : State) : (takeReset s).msg = [] := rfl
@[simp] theorem takeReset_msgValid (s : State) : (takeReset s).msgValid = false := rfl
@[simp] theorem takeReset_batch (s : State) : (takeReset s).batch = [] := rfl
@[simp] theorem takeReset_errSticky (s : State) : (takeReset s).errSticky = 0 := rfl
@[simp] theorem takeReset_status (s : State) : (takeReset s).status = 0 := rfl
@[simp] theorem takeReset_res0 (s : State) : (takeReset s).res0 = 0 := rfl
@[simp] theorem takeReset_res1 (s : State) : (takeReset s).res1 = 0 := rfl
@[simp] theorem takeReset_vfind (s : State) : (takeReset s).vfind = 0 := rfl
@[simp] theorem takeReset_out (s : State) : (takeReset s).out = [] := rfl
@[simp] theorem takeReset_params (s : State) : (takeReset s).params = s.params := rfl
@[simp] theorem takeReset_pending (s : State) : (takeReset s).pending = s.pending := rfl

@[simp] theorem idle_eq (s : State) : idle s = s := rfl

end Sys2Proof.Machine
end

