-- ==== Sys2Proof/Laws/Ops.lean ====
section
/-! SUPPORT. What each shared operation can do, said once: a proof about a command cites these and never
unfolds the operation. -/

namespace Sys2Proof.Machine

/-- `raise` answers one state: the abort rule, field by field. -/
theorem raise_eq (e : ErrorCode) (s : State) : raise e s = .next (abortedWith (errorIndex e) s) := by
  cases e <;> rfl

theorem raise_next (e : ErrorCode) (s t : State) :
    raise e s = .next t ↔ t = abortedWith (errorIndex e) s := by
  rw [raise_eq, Host.Outcome.next.injEq, eq_comm]

/-- A command that ends OK without findings. -/
theorem finish_ok (r0 r1 : Word32) (o : List Byte) (s : State) :
    finish .ok { res0 := r0, res1 := r1, out := o } s = .next (completedWith r0 r1 o s) := by
  simp [finish, completedWith, State.beginCommand, State.setResponse, State.endCommand, statusByte,
    stickyMask]

/-- A command that ends with a verdict on findings. -/
theorem finish_verdict (f : BitVec 68) (s : State) :
    finish (verdict f) { vfind := f, res0 := passFlag f } s = .next (judgedWith f s) := by
  by_cases h : f = 0
  · subst h
    simp [finish, judgedWith, verdict, passFlag, State.beginCommand, State.setResponse,
      State.endCommand, statusByte, stickyMask]
  · simp only [finish, judgedWith, verdict, passFlag, if_neg h, State.beginCommand,
      State.setResponse, State.endCommand, statusByte, stickyMask]
    rfl

/-- With a message, `withMessage` goes on; without one it raises NoMessage. -/
theorem withMessage_valid (s : State) (k : Memory → Result) (h : s.msgValid = true) :
    withMessage s k = k s.msg := by
  simp [withMessage, h]

theorem withMessage_invalid (s : State) (k : Memory → Result) (h : s.msgValid = false) :
    withMessage s k = .next (abortedWith 5 s) := by
  simp [withMessage, h, raise_eq, errorIndex]

/-- Whatever answer `withMessage` gives, it is NoMessage or what its continuation gives. -/
theorem withMessage_next (s t : State) (k : Memory → Result) (h : withMessage s k = .next t) :
    (s.msgValid = false ∧ t = abortedWith 5 s) ∨ (s.msgValid = true ∧ k s.msg = .next t) := by
  cases hv : s.msgValid with
  | false =>
    rw [withMessage_invalid s k hv, Host.Outcome.next.injEq] at h
    exact .inl ⟨rfl, h.symm⟩
  | true => exact .inr ⟨rfl, by rwa [withMessage_valid s k hv] at h⟩

/-- `deliverSamples` raises CapacityError or delivers the packed samples. -/
theorem deliverSamples_eq (x : List Sample) (s : State) :
    deliverSamples x s = .next
      (if s.params.outCap < ceilDiv8 x.length then abortedWith 10 s
       else completedWith (countResult x.length) 0 (pack x) s) := by
  by_cases h : s.params.outCap < ceilDiv8 x.length
  · simp [deliverSamples, h, raise_eq, errorIndex]
  · rw [deliverSamples, if_neg h, if_neg h]
    exact finish_ok _ _ _ _

/-- `buildMessage` ends with the operand error, or commits the encoded message. -/
theorem buildMessage_error (e : ErrorCode) (s : State) :
    buildMessage (.error e) s = .next (abortedWith (errorIndex e) s) := raise_eq e s

theorem buildMessage_ok (f : Supplied) (s : State) :
    buildMessage (.ok f) s = .next
      (completedWith (getField (encodeFields f) LEN) 0 [] (s.commitMessage (encodeFields f))) :=
  finish_ok _ _ _ _

/-- A count below 2^32 is itself. -/
theorem countResult_of_lt (n : Nat) (h : n < 2 ^ 32) : countResult n = BitVec.ofNat 32 n := by
  simp only [countResult, if_pos h]

/-- The answers of DECODE_BYTES: DecodeError, or the copy with its verdict. -/
theorem execDecodeBytes_eq (inp : List Byte) (s : State) :
    execDecodeBytes inp s = .next
      (if inp.length < 6 ∨ 86 < inp.length ∨ 64 < dataLength (Memory.ofBytes inp) ∨
          inp.length < byteLengthOfMessage (dataLength (Memory.ofBytes inp)) then abortedWith 2 s
       else judgedWith (findings (Memory.ofBytes inp)) (s.commitMessage (Memory.ofBytes inp))) := by
  have h6 : byteLengthOfMessage 0 = 6 := rfl
  have h86 : maxMsgBytes = 86 := rfl
  have h64 : maxData = 64 := rfl
  simp only [execDecodeBytes, h6, h86, h64, raise_eq, errorIndex, finish_verdict]
  split_ifs <;> first | rfl | omega

end Sys2Proof.Machine
end

