-- ==== Sys2Proof/Laws/PerInstr.lean ====
section
/-! SUPPORT. Facts about each instruction as syntax, one lemma per constructor. -/

namespace Sys2Proof.Laws.DecodeEncode

/-- The transaction of an instruction decodes to it. -/
def Statement (i : Instr) : Prop := decode (encode i) = .ok i

theorem fieldRead (offset length : Word32) : Statement (.fieldRead offset length) := rfl
theorem parity (value : Word32) : Statement (.parity value) := rfl
theorem buildFields (mask bcast master slave control : Word32) (inp : List Byte) :
    Statement (.buildFields mask bcast master slave control inp) := rfl
theorem buildTokens (inp : List Byte) : Statement (.buildTokens inp) := rfl
theorem decodeBytes (inp : List Byte) : Statement (.decodeBytes inp) := rfl
theorem validate : Statement .validate := rfl
theorem asBytes : Statement .asBytes := rfl
theorem display : Statement .display := rfl
theorem decodeView : Statement .decodeView := rfl
theorem encodeSignal : Statement .encodeSignal := rfl
theorem batchClear : Statement .batchClear := rfl
theorem batchAppend (timestamp : Word32) : Statement (.batchAppend timestamp) := rfl
theorem compose (interval glitch : Word32) : Statement (.compose interval glitch) := rfl
theorem packSamples (inp : List Byte) : Statement (.packSamples inp) := rfl

end Sys2Proof.Laws.DecodeEncode
end

