-- ==== Sys2Proof/Laws/Signal.lean ====
section
/-! SUPPORT. Lengths and shapes of sample sequences. -/

namespace Sys2Proof.Machine

@[simp] theorem high_length (n : Nat) : (high n).length = n := by simp [high]

@[simp] theorem low_length (n : Nat) : (low n).length = n := by simp [low]

/-- Every bit contributes 41 samples whatever its value (R198). -/
@[simp] theorem lineCode_length (b : Bool) : (lineCode b).length = 41 := by cases b <;> rfl

@[simp] theorem messageBits_length (m : Memory) :
    (messageBits m).length = bitLengthOfMessage (dataLength m) := by
  simp [messageBits]

@[simp] theorem packGroups_length (n : Nat) (x : List Sample) : (packGroups n x).length = n := by
  induction n generalizing x with
  | zero => rfl
  | succ n ih => simp [packGroups, ih]

/-- `pack` gives `ceil(N/8)` bytes (R226). -/
@[simp] theorem pack_length (x : List Sample) : (pack x).length = ceilDiv8 x.length := by simp [pack]

@[simp] theorem unpackByte_length (b : Byte) : (unpackByte b).length = 8 := by simp [unpackByte]

/-- The length COMPOSE checks before it builds its output is the output's length (R224). -/
theorem frameSamples_length (g : Nat) (u : List Sample) :
    (frameSamples g u).length = framedLength g u := by
  simp [frameSamples, framedLength]
  omega

/-- Overwriting inside the timeline keeps its length (R218). -/
theorem overwrite_length (t : List Sample) (p : Placed) (h : placedEnd p ≤ t.length) :
    (overwrite t p).length = t.length := by
  simp only [placedEnd] at h
  simp [overwrite, placedEnd]
  omega

/-- Composing inside the timeline keeps its length (R218). -/
theorem foldl_overwrite_length (ps : List Placed) (t : List Sample)
    (h : ∀ p ∈ ps, placedEnd p ≤ t.length) : (ps.foldl overwrite t).length = t.length := by
  induction ps generalizing t with
  | nil => rfl
  | cons p ps ih =>
    have hp := overwrite_length t p (h p List.mem_cons_self)
    rw [List.foldl_cons, ih _ fun q hq => hp ▸ h q (List.mem_cons_of_mem _ hq), hp]

theorem stripIdle_length_le (t : List Sample) : (stripIdle t).length ≤ t.length :=
  (List.dropWhile_sublist _).length_le

/-- Trimming never lengthens (R220). -/
theorem trim_length_le (t : List Sample) : (trim t).length ≤ t.length := by
  have h1 := stripIdle_length_le (stripIdle t).reverse
  have h2 := stripIdle_length_le t
  simp only [trim, List.length_reverse] at *
  omega

end Sys2Proof.Machine
end

