-- ==== Sys2Proof/Machine/Listing.lean ====
section
/-! DEFINITION. The listing syntax of R87: a line `MNEMONIC a0, a1, ...`, with IN as `IN="text"` or
`IN=[hh hh ...]`, and a comment after `;`. It is the host's notation for a transaction; the block never
sees it. Points R87 leaves open are settled in entry 13 (DESIGN CHOICE). -/

namespace Sys2Proof.Machine

/-- The opcode map of R83 by mnemonic. -/
def mnemonics : List (List Char × Byte) :=
  [("FIELD_READ".toList, 0x01), ("PARITY".toList, 0x02), ("BUILD_FIELDS".toList, 0x10),
   ("BUILD_TOKENS".toList, 0x11), ("DECODE_BYTES".toList, 0x12), ("VALIDATE".toList, 0x13),
   ("AS_BYTES".toList, 0x14), ("DISPLAY".toList, 0x15), ("DECODE_VIEW".toList, 0x16),
   ("ENCODE_SIGNAL".toList, 0x20), ("BATCH_CLEAR".toList, 0x30), ("BATCH_APPEND".toList, 0x31),
   ("COMPOSE".toList, 0x32), ("PACK_SAMPLES".toList, 0x33)]

/-- A character's byte value (R87). -/
def charByte (c : Char) : Byte := BitVec.ofNat 8 c.toNat

/-- Text as bytes: the characters' byte values, no terminator (R87). -/
def textBytes (text : List Char) : List Byte := text.map charByte

def skipSpaces (text : List Char) : List Char := text.dropWhile fun c => c == ' '

/-- The value of a digit character in either case; a character that is not ASCII is no digit (entry 13). -/
def charDigit? (c : Char) : Option Nat := if c.toNat < 128 then hexDigit? (charByte c) else none

/-- The digits of a number in the given base, most significant first; none when there is no digit or a
character is no digit of the base. Leading zeros are accepted (entry 13). -/
def readDigits (base : Nat) (digits : List Char) : Option Nat :=
  if digits.isEmpty then none
  else digits.foldl
    (fun v c => do
      let n ← v
      let d ← charDigit? c
      if d < base then some (base * n + d) else none)
    (some 0)

/-- A decimal or `0x` number that fits an operand register. -/
def readNumber (digits : List Char) : Option Word32 := do
  let n ← match digits with
    | '0' :: 'x' :: rest => readDigits 16 rest
    | _ => readDigits 10 digits
  if n < 2 ^ 32 then some (BitVec.ofNat 32 n) else none

/-- Nothing but spaces or a comment is left on the line. -/
def isLineEnd (rest : List Char) : Bool :=
  match skipSpaces rest with
  | [] => true
  | c :: _ => c == ';'

/-- One byte of `IN=[hh hh ...]`: exactly two hexadecimal digits. -/
def readHexByte (t : List Byte) : Option Byte :=
  if t.length = 2 && isHex t then some (BitVec.ofNat 8 (hexValue t)) else none

/-- The characters a quoted text stands for. R87 names no escape, and V-BT-7 writes a TAB as a backslash and
a `t`: that pair reads as one TAB (DEDUCED from the vector's response), and every other backslash as
itself (DESIGN CHOICE); entry 13. -/
def unescape : List Char → List Char
  | [] => []
  | '\\' :: 't' :: rest => '\t' :: unescape rest
  | c :: rest => c :: unescape rest

/-- The IN operand after `IN=`: a quoted text, which ends at the next quote and may write a TAB as
`unescape` has it, or bytes in brackets with spaces between them, and nothing but digits and spaces there
(entry 13). -/
def readInput : List Char → Option (List Byte)
  | '"' :: rest =>
    let text := rest.takeWhile fun c => c != '"'
    match rest.drop text.length with
    | _ :: tail => if isLineEnd tail && text.all (fun c => c.toNat < 128) then some (textBytes (unescape text))
      else none
    | [] => none
  | '[' :: rest =>
    let text := rest.takeWhile fun c => c != ']'
    match rest.drop text.length with
    | _ :: tail =>
      if isLineEnd tail && text.all (fun c => c == ' ' || (charDigit? c).isSome) then
        (tokens (textBytes text)).mapM readHexByte
      else none
    | [] => none
  | _ => none

/-- One operand or more: numbers separated by commas, then IN, behind a comma when a number stands before
it. A comma must have an operand after it (entry 13). `fuel` bounds their count. -/
def readOperands : Nat → List Char → Option (List Word32 × List Byte)
  | 0, _ => none
  | fuel + 1, rest =>
    match skipSpaces rest with
    | 'I' :: 'N' :: '=' :: text => (readInput text).map fun b => ([], b)
    | text =>
      let digits := text.takeWhile fun c => c != ',' && c != ' ' && c != ';'
      let tail := skipSpaces (text.drop digits.length)
      let next :=
        match tail with
        | ',' :: more => readOperands fuel more
        | _ => if isLineEnd tail then some ([], []) else none
      match readNumber digits, next with
      | some n, some (args, inp) => some (n :: args, inp)
      | _, _ => none

/-- What stands after the mnemonic: nothing, or a space and the operands (entry 13). -/
def readRest (rest : List Char) : Option (List Word32 × List Byte) :=
  if isLineEnd rest then some ([], [])
  else if rest.head? = some ' ' then readOperands 6 rest
  else none

/-- The transaction of a listing line; omitted operands are 0 (R87). A line that is not of R87's form, as
entry 13 settles it, reads as none, and so does a line that holds no command. -/
def readLine (line : List Char) : Option Command :=
  let text := skipSpaces line
  let name := text.takeWhile fun c => c.isUpper || c == '_'
  match mnemonics.lookup name, readRest (text.drop name.length) with
  | some opc, some (args, inp) =>
    if args.length ≤ 5 then
      some { opc := opc, arg0 := args.getD 0 0, arg1 := args.getD 1 0, arg2 := args.getD 2 0,
             arg3 := args.getD 3 0, arg4 := args.getD 4 0, inp := inp }
    else none
  | _, _ => none

end Sys2Proof.Machine
end

