-- ==== Sys2Proof/Tests/Slice0.lean ====
section
/-! SUPPORT. Tests on single steps, with expected values from spec/95_test_vectors.md (the vector is named at
each), decoding checked against commands written out from R83, the WellFormed smoke, and the witnesses
of the statements' hypotheses. -/

namespace Sys2Proof.Tests

open Sys2Proof.Machine Sys2Proof.Claims

-- One test at a time: many kernel evaluations at once need more threads than the memory limit allows.
set_option Elab.async false

/-! ## Helpers -/

/-- The byte view of V-MSG-3, the broadcast scenario. -/
def bytesB : List Byte := [0x0f, 0xfc, 0x00, 0x1f, 0x40, 0xd0, 0xf4, 0x07, 0x45, 0xc0]

/-- The byte view of V-MSG-2, the unicast scenario. -/
def bytesU : List Byte :=
  [0x8c, 0x85, 0x10, 0x1f, 0x41, 0xf0, 0xf4, 0x15, 0x00, 0x49, 0x77, 0x46, 0x71, 0x04, 0xc0]

/-- The state after reset but for the message held. -/
def holding (bytes : List Byte) : State :=
  { State.reset with msg := Memory.ofBytes bytes, msgValid := true }

/-- A batch of one all-zero message. -/
def oneEntry : State := { State.reset with batch := [⟨5, []⟩] }

/-- Two all-zero messages. -/
def twoEntries (ts0 ts1 : Word32) : State := { State.reset with batch := [⟨ts0, []⟩, ⟨ts1, []⟩] }

/-- The command answers a next state of which `p` holds. -/
def answers (r : Result) (p : State → Bool) : Bool :=
  match r with
  | .next t => p t
  | .fault _ => false
  | .refused _ => false

/-- A next state that satisfies a test exists. -/
theorem exists_of_answers {r : Result} {p : State → Bool} (h : answers r p = true) :
    ∃ t, r = .next t ∧ p t = true := by
  cases r with
  | next t => exact ⟨t, rfl, h⟩
  | fault e => cases e
  | refused e => cases h

/-- ASCII text as bytes. -/
def ascii (text : String) : List Byte := textBytes text.toList

/-! ## Decoding (R83) -/

theorem test_decode_fieldRead : decode ⟨0x01, 1, 12, 9, 9, 9, [7]⟩ = .ok (.fieldRead 1 12) := by decide
theorem test_decode_parity : decode ⟨0x02, 0x0B, 9, 9, 9, 9, [7]⟩ = .ok (.parity 0x0B) := by decide
theorem test_decode_buildFields :
    decode ⟨0x10, 0x1F, 1, 0x190, 0x440, 0xF, [7]⟩ = .ok (.buildFields 0x1F 1 0x190 0x440 0xF [7]) := by
  decide
theorem test_decode_buildTokens : decode ⟨0x11, 1, 2, 3, 4, 5, [7]⟩ = .ok (.buildTokens [7]) := by decide
theorem test_decode_decodeBytes : decode ⟨0x12, 1, 2, 3, 4, 5, [7]⟩ = .ok (.decodeBytes [7]) := by decide
theorem test_decode_validate : decode ⟨0x13, 9, 9, 9, 9, 9, [7]⟩ = .ok .validate := by decide
theorem test_decode_asBytes : decode ⟨0x14, 9, 9, 9, 9, 9, [7]⟩ = .ok .asBytes := by decide
theorem test_decode_display : decode ⟨0x15, 9, 9, 9, 9, 9, [7]⟩ = .ok .display := by decide
theorem test_decode_decodeView : decode ⟨0x16, 9, 9, 9, 9, 9, [7]⟩ = .ok .decodeView := by decide
theorem test_decode_encodeSignal : decode ⟨0x20, 9, 9, 9, 9, 9, [7]⟩ = .ok .encodeSignal := by decide
theorem test_decode_batchClear : decode ⟨0x30, 9, 9, 9, 9, 9, [7]⟩ = .ok .batchClear := by decide
theorem test_decode_batchAppend : decode ⟨0x31, 777, 9, 9, 9, 9, [7]⟩ = .ok (.batchAppend 777) := by
  decide
theorem test_decode_compose : decode ⟨0x32, 5000, 3, 9, 9, 9, [7]⟩ = .ok (.compose 5000 3) := by decide
theorem test_decode_packSamples : decode ⟨0x33, 1, 2, 3, 4, 5, [0x30]⟩ = .ok (.packSamples [0x30]) := by
  decide
/-- The neighbours of the assigned ranges are illegal (R85). -/
theorem test_decode_illegal :
    ∀ opc ∈ [0x00#8, 0x03#8, 0x0F#8, 0x17#8, 0x1F#8, 0x21#8, 0x2F#8, 0x34#8, 0x40#8, 0xFF#8],
      decode { opc := opc } = .error (.illegalCommand opc) := by decide
theorem test_unit_op : (encode (.compose 0 0)).unit = 3 ∧ (encode (.compose 0 0)).op = 2 := by decide
/-- FIELD_READ 1, 12 as bits: opcode 0x01, then ARG0 = 1 from bit 8 and ARG1 = 12 from bit 40. -/
theorem test_word_fieldRead :
    decodeTableWord 72 (0x0000000C_00000001_01) = some (.fieldRead 1 12) := by decide
theorem test_word_illegal : decodeTableWord 8 0x17 = none := by decide

/-! ## Well-formedness: each check refuses an ill-formed term -/

theorem test_wf_width_low : (Instr.fieldRead 0 0).wellFormed = false := by decide
theorem test_wf_width_high : (Instr.fieldRead 0 13).wellFormed = false := by decide
theorem test_wf_width_ok : (Instr.fieldRead 0 12).wellFormed = true := by decide
theorem test_wf_mask : (Instr.buildFields 0x20 0 0 0 0 []).wellFormed = false := by decide
theorem test_wf_bcast : (Instr.buildFields 1 2 0 0 0 []).wellFormed = false := by decide
theorem test_wf_master : (Instr.buildFields 2 0 0x1000 0 0 []).wellFormed = false := by decide
theorem test_wf_slave : (Instr.buildFields 4 0 0 0x1000 0 []).wellFormed = false := by decide
theorem test_wf_control : (Instr.buildFields 8 0 0 0 0x10 []).wellFormed = false := by decide
theorem test_wf_data : (Instr.buildFields 0x10 0 0 0 0 (List.replicate 65 0)).wellFormed = false := by
  decide
theorem test_wf_tokens_few : (Instr.buildTokens (ascii "B 1ff 000 f")).wellFormed = false := by
  decide +kernel
theorem test_wf_tokens_hex : (Instr.buildTokens (ascii "B 0x1ff 000 f 1")).wellFormed = false := by
  decide +kernel
theorem test_wf_tokens_range : (Instr.buildTokens (ascii "B 1ff 000 f 100")).wellFormed = false := by
  decide +kernel
theorem test_wf_decode_short : (Instr.decodeBytes [0, 0, 0, 0, 0]).wellFormed = false := by decide
theorem test_wf_decode_long : (Instr.decodeBytes (List.replicate 87 0)).wellFormed = false := by decide
theorem test_wf_samples : (Instr.packSamples (ascii "01x1")).wellFormed = false := by decide +kernel

/-! ## The primitives -/

/-- V-WF-6. -/
theorem test_writeField_window :
    fieldInto ⟨20, 12⟩ 0xAAAAAAAA 0x123 = 0xA123AAAA := by decide
/-- V-WF-9: an over-wide value is masked. -/
theorem test_writeField_masks : fieldInto ⟨44, 8⟩ 0 0x1FF = 0x0FF00000 := by decide
/-- The canonical form: writing zero removes the entry. -/
theorem test_write_zero_removes : Memory.write [(3, 1), (5, 2)] 5 0 = [(3, 1)] := by decide
/-- R97, R99: colons vanish, whitespace runs separate, digits in either case. -/
theorem test_tokens : tokens (stripColons (ascii " B 1F:0  9c ")) = [[0x42], [0x31, 0x46, 0x30], [0x39, 0x63]] := by
  decide +kernel
/-- V-PK-5. -/
theorem test_pack_pads : pack ([.high] ++ low 7 ++ [.high]) = [0x80, 0xff] := by decide
/-- The trimming of R220 keeps inner idle. -/
theorem test_trim : trim [.high, .low, .high, .low, .high, .high] = [.low, .high, .low] := by decide
/-- R218, R219: the later entry wins over the shared range. -/
theorem test_overwrite_later_wins :
    composeTimeline 5 [⟨0, [.low, .low, .low]⟩, ⟨1, [.high, .low]⟩] =
      [.low, .high, .low, .high, .high] := by decide

/-! ## One step of each command -/

/-- V-MSG-1: MASTER of V-MSG-2. -/
theorem test_fieldRead : answers (exec (.fieldRead 1 12) (holding bytesU)) (fun t => t.res0 == 0x190) := by
  decide +kernel
/-- V-FR-8: LayoutError comes before BufferBoundsError. -/
theorem test_fieldRead_order :
    answers (exec (.fieldRead 696 13) (holding bytesU)) (fun t => t.status == 0x14) := by decide +kernel
/-- V-SRC-1. -/
theorem test_parity : answers (exec (.parity 0x0B) State.reset) (fun t => t.res0 == 1) := by decide +kernel
/-- V-BF-3. -/
theorem test_buildFields :
    answers (exec (.buildFields 0xE 0 0x123 0x456 5 []) State.reset)
      (fun t => t.msg.bytes 0 6 == [0x09, 0x19, 0x15, 0xb5, 0x40, 0x00] && t.msgValid) := by decide +kernel
/-- V-BF-13: FormatError comes before RangeError, and MSG stays. -/
theorem test_buildFields_order :
    answers (exec (.buildFields 0x21 2 0 0 0 []) (holding bytesU))
      (fun t => t.status == 0x10 && t.msg == Memory.ofBytes bytesU) := by decide +kernel
/-- V-MSG-3. -/
theorem test_buildTokens :
    answers (exec (.buildTokens (ascii "B 1ff 000 f 1 45")) State.reset)
      (fun t => t.msg == Memory.ofBytes bytesB && t.res0 == 3) := by decide +kernel
/-- V-BT-19: FormatError comes before RangeError. -/
theorem test_buildTokens_order :
    answers (exec (.buildTokens (ascii "B 1fff 000 f zz")) State.reset) (fun t => t.status == 0x10) := by
  decide +kernel
/-- V-DB-5: byte 9 = 0xC9 flips DATA_P(2). -/
theorem test_decodeBytes_finding :
    answers (exec (.decodeBytes (bytesU.set 9 0xC9)) State.reset)
      (fun t => t.status == 0x01 && t.vfind == 0x40 && t.msgValid && t.errSticky == 0x8000) := by
  decide +kernel
/-- V-DB-11. -/
theorem test_decodeBytes_short :
    answers (exec (.decodeBytes bytesU.dropLast) State.reset)
      (fun t => t.status == 0x12 && !t.msgValid) := by decide +kernel
/-- V-VA-1. -/
theorem test_validate : answers (exec .validate (holding bytesU)) (fun t => t.res0 == 1) := by
  decide +kernel
/-- V-AB-2. -/
theorem test_asBytes :
    answers (exec .asBytes (holding bytesB)) (fun t => t.out == bytesB && t.res0 == 10) := by decide +kernel
/-- V-SRC-10. -/
theorem test_display :
    answers (exec .display (holding bytesB))
      (fun t => t.out == ascii "B 1ff 000 f  3 : 0f 01 45" && t.res0 == 25) := by decide +kernel
/-- V-DV-1: the spacer is dropped. -/
theorem test_decodeView_unicast :
    answers (exec .decodeView (holding bytesU))
      (fun t => t.out == [0x05, 0x00, 0x25, 0x74, 0x9c, 0x04] && t.res0 == 5 && t.res1 == 0) := by
  decide +kernel
/-- V-DV-2. -/
theorem test_decodeView_broadcast :
    answers (exec .decodeView (holding bytesB))
      (fun t => t.out == [0x0f, 0x01, 0x45] && t.res0 == 0xF && t.res1 == 1) := by decide +kernel
/-- V-ES-1: OUT bytes 0 to 29 of the all-zero message. -/
theorem test_encodeSignal :
    answers (exec .encodeSignal (holding []))
      (fun t => t.res0 == 2082 && t.out.length == 261 && t.out.take 30 == List.replicate 21 0xFF ++
        [0xc0, 0, 0, 0, 0, 0, 0x01, 0xfe, 0]) := by decide +kernel
/-- V-BA-6. -/
theorem test_batchClear :
    answers (exec .batchClear oneEntry) (fun t => t.batch == [] && t.res0 == 0) := by decide +kernel
/-- V-BA-1. -/
theorem test_batchAppend :
    answers (exec (.batchAppend 7) (holding bytesB))
      (fun t => t.batch == [⟨7, Memory.ofBytes bytesB⟩] && t.res0 == 1) := by decide +kernel
/-- V-BA-4: `MAX_BATCH` entries are the most. -/
theorem test_batchAppend_full :
    answers (exec (.batchAppend 7)
      { holding bytesB with batch := [⟨0, []⟩], params := { Params.reference with maxBatch := 1 } })
      (fun t => t.status == 0x16) := by decide +kernel
/-- R224 on the all-zero message: `|U| = 20 + 44·41 − 8 = 1816`, `N = 3 + 20000 + 1816`. -/
theorem test_compose :
    answers (exec (.compose 0 3) oneEntry) (fun t => t.res1 == 1816 && t.res0 == 21819) := by
  decide +kernel
/-- V-CMP-14: a timestamp below the first. -/
theorem test_compose_order :
    answers (exec (.compose 0 0) (twoEntries 100 50)) (fun t => t.status == 0x18) := by decide +kernel
/-- V-SRC-6. -/
theorem test_packSamples :
    answers (exec (.packSamples (ascii "0101")) State.reset) (fun t => t.out == [0x5f] && t.res0 == 4) := by
  decide +kernel
/-- V-PK-8: a space is no sample. -/
theorem test_packSamples_format :
    answers (exec (.packSamples (ascii "0 1")) State.reset) (fun t => t.status == 0x10) := by decide +kernel
/-- V-IL-3. -/
theorem test_step_illegal :
    answers (step ((holding bytesU).issue (.command ⟨0x17, 1, 2, 3, 4, 5, [0x61]⟩)))
      (fun t => t.status == 0x1B && t.errSticky == 0x0800 && t.msg == Memory.ofBytes bytesU) := by
  decide +kernel
/-- V-RS-1: what was held is gone. -/
theorem test_step_reset :
    answers (step ({ holding bytesB with errSticky := 0x88B1, out := [1] }.issue .reset))
      (fun t => t == State.reset) := by decide +kernel
/-- `withFetchWord` on the table's word of PARITY. -/
theorem test_fetch_word :
    answers (step (State.reset.withFetchWord 8 0x02)) (fun t => t.status == 0 && t.pending == []) := by
  decide +kernel

/-! ## The listing syntax (R87) -/

theorem test_listing_numbers : readLine "FIELD_READ 1, 0xC ; MASTER".toList = some (encode (.fieldRead 1 12)) := by
  decide +kernel
theorem test_listing_bytes :
    readLine "BUILD_FIELDS 0x10, IN=[01 fe]".toList = some (encode (.buildFields 0x10 0 0 0 0 [1, 0xfe])) := by
  decide +kernel

/-- V-BT-7's line: the backslash and the `t` are a TAB. -/
theorem test_listing_tab :
    readLine "BUILD_TOKENS IN=\"  B\\t1FF   000 F 1 45 \"".toList =
      some (encode (.buildTokens (ascii "  B\t1FF   000 F 1 45 "))) := by decide +kernel

/-- Lines that R87's form does not have: a comma with nothing after it, no space after the mnemonic, a
digit that is not ASCII, a TAB between bytes, an operand too many (entry 13). -/
theorem test_listing_refuses :
    ∀ line ∈ ["PARITY 5,", "PARITY5", "PARITY \u0131", "DECODE_BYTES IN=[01\t02]", "PARITY 1, 2, 3, 4, 5, 6"],
      readLine line.toList = none := by decide +kernel
/-- A line of the listing in spec/95_test_vectors.md with its comment, and one with operands and IN. -/
theorem test_listing_lines :
    readLine "AS_BYTES   ; V-AB-2".toList = some (encode .asBytes) ∧
    readLine "BUILD_FIELDS 0x11, 1, IN=[77]".toList = some (encode (.buildFields 0x11 1 0 0 0 [0x77])) := by
  decide +kernel

/-! ## Witnesses: each statement's hypotheses are met by a concrete state and operands

`witness_<Name>` is for the statement `Obligations.<Name>`. -/

/-- A next state with the property exists, by evaluation. -/
theorem meets {r : Result} {p : State → Prop} [DecidablePred p]
    (h : answers r (fun t => decide (p t)) = true) : ∃ t, r = .next t ∧ p t := by
  obtain ⟨t, ht, hp⟩ := exists_of_answers h
  exact ⟨t, ht, of_decide_eq_true hp⟩

/-- The longest message: 64 zero data bytes. -/
def longest : Memory := encodeFields { data := some (List.replicate 64 0) }

/-- A state that holds V-DB-5's message: one finding. -/
def flawed : State := holding (bytesU.set 9 0xC9)

/-- The smallest legal parameters. -/
def smallest : Params := { msgCap := 89, maxBatch := 1, outCap := 3541 }

theorem witness_ResetEventRestoresResetValues :
    (flawed.issue .reset).pending = .reset :: [] := by decide +kernel

theorem witness_IdleStepKeepsEverything : flawed.pending = [] := by decide +kernel

theorem witness_StepRunsDecodedCommand :
    (flawed.issue (.command ⟨0x01, 1, 12, 0, 0, 0, []⟩)).pending = .command ⟨0x01, 1, 12, 0, 0, 0, []⟩ :: [] ∧
      decode ⟨0x01, 1, 12, 0, 0, 0, []⟩ = .ok (.fieldRead 1 12) := by decide +kernel

theorem witness_IssuedWordRunsNext :
    decodeTableWord 72 0x0000000C_00000001_01 = some (.fieldRead 1 12) := by decide

theorem witness_UnassignedOpcodesAndUnusedOperands :
    (∀ opc ∈ [0x00#8, 0x03#8, 0x0F#8, 0x17#8, 0x34#8, 0xFF#8], opc ∉ assignedOpcodes) ∧
    ∃ c d : Command, c ≠ d ∧ c.opc = d.opc ∧
      (c.opc ∈ [0x01#8, 0x02#8, 0x10#8, 0x31#8, 0x32#8] → c.arg0 = d.arg0) ∧
      (c.opc ∈ [0x01#8, 0x10#8, 0x32#8] → c.arg1 = d.arg1) ∧
      (c.opc = 0x10#8 → c.arg2 = d.arg2 ∧ c.arg3 = d.arg3 ∧ c.arg4 = d.arg4) ∧
      (c.opc ∈ [0x10#8, 0x11#8, 0x12#8, 0x33#8] → c.inp = d.inp) :=
  ⟨by decide, ⟨0x02, 5, 1, 1, 1, 1, [1]⟩, ⟨0x02, 5, 2, 2, 2, 2, []⟩, by decide⟩

/-- The first and the last error code. -/
theorem witness_FailedCommandLeavesStateAsItWas :
    (∃ t, runCommand ⟨0x10, 0x20, 0, 0, 0, 0, []⟩ flawed = .next t ∧ 0x10 ≤ t.status.toNat) ∧
    ∃ t, runCommand { opc := 0x17 } flawed = .next t ∧ 0x10 ≤ t.status.toNat :=
  ⟨meets (by decide +kernel), meets (by decide +kernel)⟩

theorem witness_StickyBitsAccumulateUntilReset :
    (∃ t, runCommand { opc := 0x13 } flawed = .next t ∧ t.status = 0x01) ∧
    (∃ t, runCommand { opc := 0x14 } flawed = .next t ∧ t.status = 0x00) ∧
    (∃ t, runCommand { opc := 0xFF } flawed = .next t ∧ t.status = 0x1B) ∧
    (flawed.issue .reset).pending = .reset :: [] ∧
    ∃ t, step (flawed.issue .reset) = .next t ∧ t.msg = [] :=
  ⟨meets (by decide +kernel), meets (by decide +kernel), meets (by decide +kernel), by decide +kernel,
    meets (by decide +kernel)⟩

theorem witness_StatusHoldsOnlyListedCodes :
    ∃ t, runCommand { opc := 0x13 } flawed = .next t ∧ t.status = 0x01 := meets (by decide +kernel)

/-- A kept message, a constructor that completes, and reset. -/
theorem witness_OnlyCompletedConstructorsReplaceMessage :
    (∃ t, step (flawed.issue (.command { opc := 0x13 })) = .next t ∧ t.msg = flawed.msg) ∧
    (∃ t, step (flawed.issue (.command { opc := 0x12, inp := bytesB })) = .next t ∧ t.msg ≠ flawed.msg) ∧
    ∃ t, step (flawed.issue .reset) = .next t ∧ t.msgValid = false :=
  ⟨meets (by decide +kernel), meets (by decide +kernel), meets (by decide +kernel)⟩

/-- A kept batch, reset, BATCH_CLEAR and BATCH_APPEND. -/
theorem witness_OnlyBatchCommandsWriteBatch :
    (∃ t, step (oneEntry.issue (.command { opc := 0x13 })) = .next t ∧ t.batch = oneEntry.batch) ∧
    (∃ t, step (oneEntry.issue .reset) = .next t ∧ t.batch = []) ∧
    (∃ t, step (oneEntry.issue (.command { opc := 0x30 })) = .next t ∧ t.batch = []) ∧
    ∃ t, step ((holding bytesB).issue (.command { opc := 0x31, arg0 := 7 })) = .next t ∧ t.batch.length = 1 :=
  ⟨meets (by decide +kernel), meets (by decide +kernel), meets (by decide +kernel), meets (by decide +kernel)⟩

theorem witness_WarningCommitsResultsWithFindings :
    (∃ t, runCommand { opc := 0x12, inp := bytesU.set 9 0xC9 } State.reset = .next t ∧ t.status = 0x01) ∧
    (∃ t, runCommand { opc := 0x13 } flawed = .next t ∧ t.status = 0x01) ∧
    ∃ t, runCommand { opc := 0x11, inp := ascii "B 1ff 000 f 1 45" } flawed = .next t ∧ t.status = 0x00 :=
  ⟨meets (by decide +kernel), meets (by decide +kernel), meets (by decide +kernel)⟩

/-- Two states with the same message, batch and parameters and different responses. -/
theorem witness_ResponseIgnoresEarlierResponses :
    ∃ s s' : State, s ≠ s' ∧ s.msg = s'.msg ∧ s.msgValid = s'.msgValid ∧ s.batch = s'.batch ∧
      s.params = s'.params ∧ (∃ t, runCommand { opc := 0x13 } s = .next t ∧ t.status = 0x01) ∧
      ∃ t', runCommand { opc := 0x13 } s' = .next t' ∧ t'.status = 0x01 :=
  ⟨flawed, { flawed with res0 := 7, out := [1], errSticky := 3 }, by decide +kernel, rfl, rfl, rfl, rfl,
    meets (by decide +kernel), meets (by decide +kernel)⟩

theorem witness_StepTakesOneEventAndKeepsParameters :
    ∃ t, step ((flawed.issue .reset).issue (.command { opc := 0x13 })) = .next t ∧ t.pending = [.reset] :=
  meets (by decide +kernel)

theorem witness_NoMessageExactlyWhereMessageIsRead :
    State.reset.msgValid = false ∧
    ∃ t, runCommand { opc := 0x13 } State.reset = .next t ∧ t.status = 0x15 :=
  ⟨rfl, meets (by decide +kernel)⟩

/-- Each clause: a command that ends with that error. -/
theorem witness_EachErrorComesFromItsCommands :
    (∃ t, runCommand { opc := 0x33, inp := [0x20] } flawed = .next t ∧ t.status = 0x10) ∧
    (∃ t, runCommand { opc := 0x10, arg0 := 1, arg1 := 2 } flawed = .next t ∧ t.status = 0x11) ∧
    (∃ t, runCommand { opc := 0x12 } flawed = .next t ∧ t.status = 0x12) ∧
    (∃ t, runCommand { opc := 0x01, arg0 := 696, arg1 := 1 } flawed = .next t ∧ t.status = 0x13) ∧
    (∃ t, runCommand { opc := 0x01, arg1 := 13 } flawed = .next t ∧ t.status = 0x14) ∧
    (∃ t, runCommand { opc := 0x31 }
      { flawed with batch := [⟨0, []⟩], params := { msgCap := 89, maxBatch := 1, outCap := 3541 } } = .next t ∧
        t.status = 0x16) ∧
    (∃ t, runCommand { opc := 0x32 } flawed = .next t ∧ t.status = 0x17) ∧
    (∃ t, runCommand { opc := 0x32 } (twoEntries 100 99) = .next t ∧ t.status = 0x18) ∧
    (∃ t, runCommand { opc := 0x32, arg0 := 2081 } oneEntry = .next t ∧ t.status = 0x19) ∧
    (∃ t, runCommand { opc := 0x32, arg1 := 0xFFFFFFFF } oneEntry = .next t ∧ t.status = 0x1A) ∧
    ∃ t, runCommand { opc := 0x03 } flawed = .next t ∧ t.status = 0x1B :=
  ⟨meets (by decide +kernel), meets (by decide +kernel), meets (by decide +kernel), meets (by decide +kernel),
    meets (by decide +kernel), meets (by decide +kernel), meets (by decide +kernel), meets (by decide +kernel),
    meets (by decide +kernel), meets (by decide +kernel), meets (by decide +kernel)⟩

/-- A state that is not the one after reset and meets the invariant, at the end of a command. -/
theorem witness_EveryStepKeepsInvariant :
    BlockInv { flawed with batch := [⟨7, flawed.msg⟩], status := 0x01, vfind := 0x40 } ∧
    ∃ t, step ({ flawed with batch := [⟨7, flawed.msg⟩], status := 0x01, vfind := 0x40 }.issue
      (.command { opc := 0x31 })) = .next t ∧ t.batch.length = 2 :=
  ⟨by decide +kernel, meets (by decide +kernel)⟩

/-- The widths at both ends of their range, and a window that ends at the buffer's end and one past it. -/
theorem witness_ReadFieldGivesMessageBits :
    (∀ l : FieldLayout, l ∈ [⟨0, 1⟩, ⟨688, 12⟩, ⟨696, 12⟩] → 1 ≤ l.length ∧ l.length ≤ 12) ∧
    ¬ 90 < 688 / 8 + 4 ∧ 90 < 696 / 8 + 4 := by decide

theorem witness_WriteFieldChangesOnlyTheField :
    (Memory.ofBytes bytesU).wf ∧ 1 ≤ (⟨688, 12⟩ : FieldLayout).length ∧
    (⟨688, 12⟩ : FieldLayout).length ≤ 12 ∧ (⟨688, 12⟩ : FieldLayout).offset / 8 + 4 ≤ 90 := by decide +kernel

/-- Two fields side by side. -/
theorem witness_WritesToDifferentFieldsCommute :
    (Memory.ofBytes bytesU).wf ∧ 1 ≤ MASTER.length ∧ MASTER.length ≤ 12 ∧ 1 ≤ MASTER_P.length ∧
    MASTER_P.length ≤ 12 ∧ (MASTER.offset + MASTER.length ≤ MASTER_P.offset ∨
      MASTER_P.offset + MASTER_P.length ≤ MASTER.offset) := by decide +kernel

/-- Every field at its largest value. -/
theorem witness_EncodeFieldsWritesEachSuppliedField :
    ∃ f : Supplied, f = ⟨some 1, some 0xFFF, some 0xFFF, some 0xF, some (List.replicate 64 0xFF)⟩ ∧
      (∀ x ∈ f.bcast, x.toNat ≤ 1) ∧ (∀ x ∈ f.master, x.toNat ≤ 0xFFF) ∧
      (∀ x ∈ f.slave, x.toNat ≤ 0xFFF) ∧ (∀ x ∈ f.control, x.toNat ≤ 0xF) ∧
      ∀ d ∈ f.data, d.length ≤ 64 := ⟨_, rfl, by simp, by simp, by simp, by simp, by simp⟩

theorem witness_BuildTokensByRule :
    ∃ tok, tok = tokens ((ascii "B 1ff 000 f 1 45").filter fun c => c ≠ 0x3A) ∧ tok.length = 6 :=
  ⟨_, rfl, by decide +kernel⟩

theorem witness_TokensAreTheRunsBetweenWhitespace :
    ∃ (lead : List Byte) (runs : List (List Byte × List Byte)) (last : List Byte),
      lead = [0x20, 0x0D] ∧ runs = [([0x42], [0x09]), ([0x31, 0x66], [0x20, 0x20])] ∧ last = [0x30] ∧
      (∀ c ∈ lead, isWhitespace c) ∧
      (∀ r ∈ runs, r.1 ≠ [] ∧ r.2 ≠ [] ∧ (∀ c ∈ r.1, isWhitespace c = false) ∧ ∀ c ∈ r.2, isWhitespace c) ∧
      ∀ c ∈ last, isWhitespace c = false := ⟨_, _, _, rfl, rfl, rfl, by decide, by decide, by decide⟩

/-- A digit of each kind at the end of a token, and the largest three-digit value. -/
theorem witness_HexTokensReadBack :
    (∀ c ∈ [0x30#8, 0x39#8, 0x41#8, 0x46#8, 0x61#8, 0x66#8], isHex ([0x39, 0x46] ++ [c]) = true) ∧
    0 < 3 ∧ 0xFFF < 16 ^ 3 := by decide

theorem witness_FindingsNameTheMismatchedFields :
    dataLength longest = 64 ∧ dataLength (Memory.ofBytes bytesU) ≤ 64 := by decide +kernel

theorem witness_AsBytesByRule :
    ∃ nb, nb = (44 + 10 * bitsValue (holding bytesB).msg 34 8 + 7) / 8 ∧ nb = 10 :=
  ⟨_, rfl, by decide +kernel⟩

/-- Lengths at both ends, and the ends of the one-digit and the two-digit numbers. -/
theorem witness_DisplayByRule :
    bitsValue (holding []).msg 34 8 = 0 ∧ bitsValue longest 34 8 = 64 ∧ 0 < 3 ∧ 2 < 3 ∧ 0 < 10 ∧ 9 < 10 ∧
      10 ≤ 10 ∧ 99 < 100 := by decide +kernel

/-- A unicast and a broadcast message. -/
theorem witness_DecodeViewByRule :
    msgBit (holding bytesU).msg 0 = true ∧ msgBit (holding bytesB).msg 0 = false := by decide +kernel

theorem witness_EncodePathMessagesValidate :
    (∃ t, exec (.buildFields 0x1F 1 0xFFF 0xFFF 0xF (List.replicate 64 0xFF)) State.reset = .next t ∧
      t.status = 0x00) ∧
    ∃ t, exec (.buildTokens (ascii "B 1ff 000 f 1 45")) State.reset = .next t ∧ t.status = 0x00 :=
  ⟨meets (by decide +kernel), meets (by decide +kernel)⟩

/-- An encode-path message, and decoded messages with and without trailing bytes, with a finding. -/
theorem witness_AsBytesThenDecodeReproducesMessage :
    (∃ t, exec (.buildTokens (ascii "B 1ff 000 f 1 45")) State.reset = .next t ∧ t.status.toNat < 0x10) ∧
    (∃ t, exec (.decodeBytes (bytesU.set 9 0xC9)) State.reset = .next t ∧ t.status.toNat < 0x10) ∧
    ∃ t, exec (.decodeBytes (bytesU ++ [0xAA, 0x55])) State.reset = .next t ∧ t.status.toNat < 0x10 :=
  ⟨meets (by decide +kernel), meets (by decide +kernel), meets (by decide +kernel)⟩

theorem witness_DisplayReparsesWithTwoMoreDataBytes :
    ∃ s : State, s = { State.reset with
        msg := encodeFields { data := some (List.replicate 62 0xA5) }, msgValid := true } ∧
      s.msgValid = true ∧ dataLength s.msg = 62 := ⟨_, rfl, rfl, by decide +kernel⟩

theorem witness_EncodeSignalByRule :
    ∃ n, n = 278 + 41 * (44 + 10 * bitsValue (holding bytesB).msg 34 8) ∧ n = 3312 :=
  ⟨_, rfl, by decide +kernel⟩

/-- The smallest legal parameters and the longest message. -/
theorem witness_EncodeSignalNeverFails :
    smallest.Legal ∧ ({ State.reset with msg := longest, msgValid := true, params := smallest }).msgValid = true ∧
    dataLength longest = 64 := by decide +kernel

/-- The first and the last sample of a byte, and a padded one. -/
theorem witness_PackPutsFirstSampleInBitSeven :
    (pack [.low, .high])[0]? = some 0x7F ∧ 0 < 8 ∧ 7 < 8 := by decide

/-- An accepted string, a refused one, and the largest legal `OUT_CAP`. -/
theorem witness_PackSamplesByRule :
    State.reset.params.Legal ∧ smallest.Legal ∧
    ({ smallest with outCap := 2 ^ 29 - 1 } : Params).Legal := by decide

/-- Each clause on a batch that meets it. -/
theorem witness_ComposeRefusesEmptyUnorderedOverrun :
    State.reset.batch = [] ∧ ¬ Ordered 0 (twoEntries 100 99).batch ∧
    (oneEntry.batch ≠ [] ∧ Ordered 2081 oneEntry.batch ∧ ¬ NoOverrun 2081 oneEntry.batch) := by
  unfold Ordered NoOverrun
  decide +kernel

/-- Capture mode with a later timestamp, and the shortest regular interval that fits. -/
theorem witness_ComposeByRule :
    State.reset.params.Legal ∧
    ((twoEntries 100 1100).batch ≠ [] ∧ Ordered 0 (twoEntries 100 1100).batch ∧
      NoOverrun 0 (twoEntries 100 1100).batch) ∧
    (oneEntry.batch ≠ [] ∧ Ordered 2082 oneEntry.batch ∧ NoOverrun 2082 oneEntry.batch) := by
  unfold Ordered NoOverrun
  decide +kernel

theorem witness_TrimLeavesLowAtBothEnds :
    Sample.low ∈ [Sample.high, .low, .high] ∧ oneEntry.batch[0]? = some ⟨5, []⟩ ∧
    NoOverrun 2082 oneEntry.batch ∧ Ordered 2082 oneEntry.batch := by
  unfold Ordered NoOverrun
  decide +kernel

theorem witness_GlitchAddsIdleSamplesInFront :
    oneEntry.params.Legal ∧
    (∃ t₀, exec (.compose 0 0) oneEntry = .next t₀ ∧ t₀.status = 0x00) ∧
    ∃ t, exec (.compose 0 3) oneEntry = .next t ∧ t.status = 0x00 :=
  ⟨by decide, meets (by decide +kernel), meets (by decide +kernel)⟩

theorem witness_RegularIntervalPlacesAtMultiples :
    (2082#32 ≠ 0) ∧ NoOverrun 2082 oneEntry.batch := by
  unfold NoOverrun
  decide +kernel

/-- The largest amount by which these timestamps can rise. -/
theorem witness_CaptureTimestampsMatterOnlyRelatively :
    (∀ e ∈ (twoEntries 0 1000).batch, e.ts.toNat + (2 ^ 32 - 1001) < 2 ^ 32) ∧
    (∃ t, exec (.compose 0 0) (twoEntries 0 1000) = .next t ∧ t.status = 0x00) ∧
    ∃ t', exec (.compose 0 0) (shifted (2 ^ 32 - 1001) (twoEntries 0 1000)) = .next t' ∧ t'.status = 0x00 :=
  ⟨by decide +kernel, meets (by decide +kernel), meets (by decide +kernel)⟩

theorem witness_ComposedOutputIsGuarded :
    ∃ t, exec (.compose 0 3) oneEntry = .next t ∧ t.status = 0x00 := meets (by decide +kernel)

/-- The shortest interval of the rule, and two of the longest messages. -/
theorem witness_LongIntervalNeverOverlaps :
    ∃ s : State, s = { State.reset with batch := [⟨0, longest⟩, ⟨0, longest⟩] } ∧
      28322 ≤ (28322#32).toNat ∧ (∀ e ∈ s.batch, dataLength e.msg ≤ 64) ∧ s.batch ≠ [] :=
  ⟨_, rfl, by decide, by decide +kernel, by decide⟩

theorem witness_SingleMessageModeLength :
    (holding bytesB).params.Legal ∧ (holding bytesB).msgValid = true ∧
    dataLength (holding bytesB).msg = 3 ∧ msgBit (holding bytesB).msg 73 = true ∧
    (41 * 74 - 1 + 20000 + 7) / 8 ≤ (holding bytesB).params.outCap := by decide +kernel

end Sys2Proof.Tests
end

section
/-! Message bits: what a window and a field write change, bit by bit (R14, R17, R121 to R124). -/
namespace Sys2Proof.Machine

theorem getLsbD_fieldMask (l : FieldLayout) (j : Nat) (hj : j < 32) :
    (fieldMask l).getLsbD j = decide (j < l.length) := by
  rw [fieldMask, BitVec.getLsbD_ofNat, Nat.testBit_two_pow_sub_one]
  simp [hj]

/-- A window holds its 32 message bits most significant first (R17). -/
theorem getLsbD_window (m : Memory) (b k : Nat) (hk : k < 32) :
    (window m b).getLsbD (31 - k) = msgBit m (8 * b + k) := by
  obtain ⟨q, r, hr, rfl⟩ : ∃ q r, r < 8 ∧ k = 8 * q + r := ⟨k / 8, k % 8, by omega, by omega⟩
  have hbyte : (8 * b + (8 * q + r)) / 8 = b + q := by omega
  have hbit : (8 * b + (8 * q + r)) % 8 = r := by omega
  have hq : q < 4 := by omega
  simp only [window, msgBit, BitVec.getLsbD_append, hbyte, hbit]
  interval_cases q <;> simp (disch := omega) only [if_pos, if_neg] <;> congr 1 <;> omega

theorem getLsbD_window_byte (w : Word32) (k i : Nat) :
    (w.extractLsb' k 8).getLsbD (7 - i % 8) = w.getLsbD (k + (7 - i % 8)) := by
  rw [BitVec.getLsbD_extractLsb', decide_eq_true (by omega), Bool.true_and]

/-- A window write sets the 32 message bits of its window and no other. -/
theorem msgBit_setWindow (m : Memory) (hm : m.wf) (b : Nat) (w : Word32) (i : Nat) :
    msgBit (setWindow m b w) i =
      if 8 * b ≤ i ∧ i < 8 * b + 32 then w.getLsbD (31 - (i - 8 * b)) else msgBit m i := by
  rw [msgBit, read_setWindow m hm]
  by_cases hin : 8 * b ≤ i ∧ i < 8 * b + 32
  · obtain ⟨q, hq, hbyte⟩ : ∃ q, q < 4 ∧ i / 8 = b + q := ⟨i / 8 - b, by omega, by omega⟩
    rw [if_pos hin, hbyte]
    interval_cases q <;> simp (disch := omega) only [if_pos, if_neg, if_true, getLsbD_window_byte] <;>
      congr 1 <;> omega
  · simp (disch := omega) only [if_neg, msgBit]

/-- The window of a field holds every bit of the field (R121). -/
theorem field_inside_window (l : FieldLayout) (hl : l.length ≤ 12) :
    l.offset % 8 + l.length + fieldShift l = 32 := by
  simp only [fieldShift]
  omega

/-- Bit `j` of a field is its message bit counted from the field's end (R121). -/
theorem getLsbD_getField (m : Memory) (l : FieldLayout) (hl : l.length ≤ 12) (j : Nat) :
    (getField m l).getLsbD j = (decide (j < l.length) && msgBit m (l.offset + l.length - 1 - j)) := by
  have hshift := field_inside_window l hl
  by_cases hj : j < l.length
  · have hmask := getLsbD_fieldMask l j (by omega)
    have hbit := getLsbD_window m (windowByte l) (31 - (fieldShift l + j)) (by omega)
    rw [show 31 - (31 - (fieldShift l + j)) = fieldShift l + j by omega,
      show 8 * windowByte l + (31 - (fieldShift l + j)) = l.offset + l.length - 1 - j by
        simp only [windowByte]; omega] at hbit
    simp [getField, fieldOf, -BitVec.getLsbD_eq_getElem, hmask, hbit, hj]
  · by_cases hj32 : j < 32
    · simp [getField, fieldOf, -BitVec.getLsbD_eq_getElem, getLsbD_fieldMask l j hj32, hj]
    · simp [BitVec.getLsbD_of_ge _ j (Nat.not_lt.1 hj32), hj]

/-- Replacing a field in its window takes the field's bits from the value and keeps the others (R123). -/
theorem getLsbD_fieldInto (l : FieldLayout) (w v : Word32) (j : Nat)
    (hj : j < 32) :
    (fieldInto l w v).getLsbD j =
      if fieldShift l ≤ j ∧ j < fieldShift l + l.length then v.getLsbD (j - fieldShift l)
      else w.getLsbD j := by
  have hmask := getLsbD_fieldMask l (j - fieldShift l) (by omega)
  simp only [fieldInto, BitVec.getLsbD_or, BitVec.getLsbD_and, BitVec.getLsbD_not,
    BitVec.getLsbD_shiftLeft, hmask, hj, decide_true, Bool.true_and]
  by_cases hlow : j < fieldShift l
  · simp [hlow, Nat.not_le.2 hlow]
  · by_cases hhigh : j < fieldShift l + l.length
    · simp [hlow, hhigh, Nat.not_lt.1 hlow, show j - fieldShift l < l.length by omega]
    · simp [hlow, hhigh, show ¬ j - fieldShift l < l.length by omega]

/-- A field write sets the message bits of the field and no other (R123, R124). -/
theorem msgBit_setField (m : Memory) (hm : m.wf) (l : FieldLayout) (hl : l.length ≤ 12)
    (v : Word32) (i : Nat) :
    msgBit (setField m l v) i =
      if l.offset ≤ i ∧ i < l.offset + l.length then v.getLsbD (l.offset + l.length - 1 - i)
      else msgBit m i := by
  have hshift := field_inside_window l hl
  have hstart : 8 * windowByte l + l.offset % 8 = l.offset := by simp only [windowByte]; omega
  rw [setField, msgBit_setWindow m hm]
  by_cases hin : 8 * windowByte l ≤ i ∧ i < 8 * windowByte l + 32
  · rw [if_pos hin, getLsbD_fieldInto l _ _ _ (by omega), getLsbD_window m _ _ (by omega)]
    by_cases hfield : l.offset ≤ i ∧ i < l.offset + l.length
    · rw [if_pos hfield, if_pos (by omega)]
      congr 1
      omega
    · rw [if_neg hfield, if_neg (by omega)]
      congr 1
      omega
  · rw [if_neg hin, if_neg (by omega)]

/-- Two fields that share no message bit. -/
abbrev Apart (l k : FieldLayout) : Prop :=
  l.offset + l.length ≤ k.offset ∨ k.offset + k.length ≤ l.offset

/-- A field reads the same from two buffers with the same message bits in it. -/
theorem getField_congr (m n : Memory) (l : FieldLayout) (hl : l.length ≤ 12)
    (h : ∀ i, l.offset ≤ i → i < l.offset + l.length → msgBit m i = msgBit n i) :
    getField m l = getField n l := by
  apply BitVec.eq_of_getLsbD_eq
  intro j _
  rw [getLsbD_getField m l hl, getLsbD_getField n l hl]
  by_cases hj : j < l.length
  · rw [h _ (by omega) (by omega)]
  · simp [hj]

/-- A field write leaves every field apart from it as it was (R124). -/
theorem getField_setField_apart (m : Memory) (hm : m.wf) (l k : FieldLayout) (hl : l.length ≤ 12)
    (hk : k.length ≤ 12) (hlk : Apart l k) (v : Word32) :
    getField (setField m l v) k = getField m k := by
  refine getField_congr _ _ k hk fun i h1 h2 => ?_
  rw [msgBit_setField m hm l hl, if_neg (by omega)]

/-- A field reads back the value written to it when the value fits (R124). -/
theorem getField_setField_same (m : Memory) (hm : m.wf) (l : FieldLayout) (hl : l.length ≤ 12)
    (v : Word32) (hv : v.toNat < 2 ^ l.length) : getField (setField m l v) l = v := by
  apply BitVec.eq_of_getLsbD_eq
  intro j _
  rw [getLsbD_getField _ l hl]
  by_cases hj : j < l.length
  · rw [msgBit_setField m hm l hl, if_pos (by omega), decide_eq_true hj, Bool.true_and]
    congr 1
    omega
  · have hzero : v.getLsbD j = false :=
      Nat.testBit_lt_two_pow (hv.trans_le (Nat.pow_le_pow_right (by omega) (Nat.not_lt.1 hj)))
    simp [hj, hzero, -BitVec.getLsbD_eq_getElem]

end Sys2Proof.Machine
end

section
/-! How far the encode-path writer writes, and the message buffers a constructor can commit (R33, R141). -/
namespace Sys2Proof.Machine

/-- A canonical buffer with no message bit set from bit `n` on. -/
abbrev EndsBy (n : Nat) (m : Memory) : Prop := m.wf ∧ ∀ i, n ≤ i → msgBit m i = false

theorem endsBy_nil (n : Nat) : EndsBy n [] := ⟨wf_nil, fun _ _ => by simp [msgBit, unwritten]⟩

theorem EndsBy.mono {m : Memory} {n k : Nat} (h : EndsBy n m) (hnk : n ≤ k) : EndsBy k m :=
  ⟨h.1, fun i hi => h.2 i (hnk.trans hi)⟩

/-- A field of legal width that ends by message bit `n`. -/
abbrev Inside (n : Nat) (l : FieldLayout) : Prop := l.length ≤ 12 ∧ l.offset + l.length ≤ n

theorem endsBy_setField {m : Memory} {n : Nat} (h : EndsBy n m) (l : FieldLayout)
    (hl : Inside n l) (v : Word32) : EndsBy n (setField m l v) := by
  obtain ⟨hwf, hzero⟩ := h
  refine ⟨setField_wf m hwf l v, fun i hi => ?_⟩
  rw [msgBit_setField m hwf l hl.1, if_neg (by omega), hzero i hi]

/-- A listed cell is what its address reads as. -/
theorem read_of_mem (m : Memory) (hm : m.wf) (c : Host.Cell) (hc : c ∈ m) : m.read c.1 = c.2 := by
  induction m with
  | nil => cases hc
  | cons d m ih =>
    obtain ⟨-, hbelow, hwf⟩ := (wf_cons d m).1 hm
    rw [read_cons]
    rcases List.mem_cons.1 hc with rfl | hc
    · exact if_pos rfl
    · rw [if_neg (Nat.ne_of_gt (hbelow c hc)), ih hwf hc]

/-- Every cell of a canonical buffer holds a set message bit. -/
theorem exists_msgBit_of_mem (m : Memory) (hm : m.wf) (c : Host.Cell) (hc : c ∈ m) :
    ∃ k, k < 8 ∧ msgBit m (8 * c.1 + k) = true := by
  by_contra hnone
  refine hm.2 c hc (BitVec.eq_of_getLsbD_eq fun j hj => ?_)
  have hbit : ¬ msgBit m (8 * c.1 + (7 - j)) = true := fun h => hnone ⟨7 - j, by omega, h⟩
  have hbyte : (8 * c.1 + (7 - j)) / 8 = c.1 := by omega
  have hpos : 7 - (8 * c.1 + (7 - j)) % 8 = j := by omega
  rw [msgBit, hbyte, hpos, read_of_mem m hm c hc] at hbit
  simpa [unwritten] using hbit

/-- A buffer whose message bits end with byte `n` lists no byte from `n` on. -/
theorem EndsBy.address_lt {m : Memory} {n : Nat} (h : EndsBy (8 * n) m) :
    ∀ c ∈ m, c.1 < n := by
  intro c hc
  obtain ⟨k, -, hk⟩ := exists_msgBit_of_mem m h.1 c hc
  by_contra hn
  rw [h.2 _ (by omega)] at hk
  exact Bool.false_ne_true hk

/-! The encode-path writer (R141): how far it writes, and what LEN holds at its end. -/

theorem endsBy_setWithParity {m : Memory} {n : Nat} (h : EndsBy n m) (f p : FieldLayout)
    (hf : Inside n f) (hp : Inside n p) (v : Word32) : EndsBy n (setWithParity f p m v) :=
  endsBy_setField (endsBy_setField h f hf v) p hp _

theorem endsBy_setWithParityAck {m : Memory} {n : Nat} (h : EndsBy n m) (f p k : FieldLayout)
    (hf : Inside n f) (hp : Inside n p) (hk : Inside n k) (v : Word32) :
    EndsBy n (setWithParityAck f p k m v) :=
  endsBy_setField (endsBy_setWithParity h f p hf hp v) k hk _

theorem endsBy_setIfSupplied {m : Memory} {n : Nat} (h : EndsBy n m) (v : Option Word32)
    (write : Memory → Word32 → Memory) (hw : ∀ x, EndsBy n (write m x)) :
    EndsBy n (setIfSupplied m v write) := by
  cases v with
  | none => exact h
  | some x => exact hw x

/-- The data units end where `bitLengthOfMessage` says (R94). -/
theorem endsBy_setDataUnits (d : List Byte) (m : Memory) (i n : Nat) (h : EndsBy n m)
    (hn : bitLengthOfMessage (i + d.length) ≤ n) : EndsBy n (setDataUnits m i d) := by
  induction d generalizing m i with
  | nil => exact h
  | cons x d ih =>
    simp only [bitLengthOfMessage, headerBits, dataStride, List.length_cons] at hn ih
    refine ih _ (i + 1) (endsBy_setWithParityAck h _ _ _ ?_ ?_ ?_ _) (by omega) <;>
      simp only [Inside, DATA, DATA_P, DATA_A, headerBits, dataStride] <;> omega

/-- Writing a unit leaves a field apart from its three layouts as it was. -/
theorem getField_setWithParityAck_apart (m : Memory) (hm : m.wf) (f p k l : FieldLayout)
    (hf : f.length ≤ 12) (hp : p.length ≤ 12) (hk : k.length ≤ 12) (hl : l.length ≤ 12)
    (hfl : Apart f l) (hpl : Apart p l) (hkl : Apart k l) (v : Word32) :
    getField (setWithParityAck f p k m v) l = getField m l := by
  have hf' := setField_wf m hm f v
  rw [setWithParityAck, setWithParity, getField_setField_apart _ (setField_wf _ hf' _ _) k l hk hl hkl,
    getField_setField_apart _ hf' p l hp hl hpl, getField_setField_apart m hm f l hf hl hfl]

/-- The field of a unit reads back the value written. -/
theorem getField_setWithParityAck_same (m : Memory) (hm : m.wf) (f p k : FieldLayout)
    (hf : f.length ≤ 12) (hp : p.length ≤ 12) (hk : k.length ≤ 12) (hpf : Apart p f)
    (hkf : Apart k f) (v : Word32) (hv : v.toNat < 2 ^ f.length) :
    getField (setWithParityAck f p k m v) f = v := by
  have hf' := setField_wf m hm f v
  rw [setWithParityAck, setWithParity, getField_setField_apart _ (setField_wf _ hf' _ _) k f hk hf hkf,
    getField_setField_apart _ hf' p f hp hf hpf, getField_setField_same m hm f hf v hv]

/-- The data units lie past LEN. -/
theorem dataLength_setDataUnits (d : List Byte) (m : Memory) (hm : m.wf) (i : Nat) :
    dataLength (setDataUnits m i d) = dataLength m := by
  induction d generalizing m i with
  | nil => rfl
  | cons x d ih =>
    rw [setDataUnits, ih _ (setWithParityAck_wf _ _ _ m hm _), dataLength, dataLength,
      getField_setWithParityAck_apart m hm] <;>
      simp only [Apart, LEN, DATA, DATA_P, DATA_A, headerBits, dataStride] <;> omega

/-- LEN reads 0 from a buffer that ends before it. -/
theorem EndsBy.dataLength_eq_zero {m : Memory} (h : EndsBy LEN.offset m) : dataLength m = 0 := by
  have hfield : getField m LEN = getField [] LEN :=
    getField_congr m [] LEN (by decide) fun i hi _ => by
      rw [h.2 i hi, (endsBy_nil 0).2 i (Nat.zero_le i)]
  rw [dataLength, hfield]
  rfl

/-- The fields of `encodeFields` before the data, into a zero buffer (R46, R141). -/
def encodeHeader (f : Supplied) : Memory :=
  setIfSupplied
    (setIfSupplied
      (setIfSupplied (setIfSupplied [] f.bcast fun m v => setField m BCAST v) f.master
        (setWithParity MASTER MASTER_P))
      f.slave (setWithParityAck SLAVE SLAVE_P SLAVE_A))
    f.control (setWithParityAck CTRL CTRL_P CTRL_A)

theorem encodeFields_eq (f : Supplied) : encodeFields f = setData (encodeHeader f) f.data := rfl

/-- The fields before the data end where LEN begins (R92). -/
theorem endsBy_encodeHeader (f : Supplied) : EndsBy LEN.offset (encodeHeader f) := by
  have hbcast := endsBy_setIfSupplied (endsBy_nil LEN.offset) f.bcast (fun m v => setField m BCAST v)
    fun x => endsBy_setField (endsBy_nil _) BCAST (by decide) x
  have hmaster := endsBy_setIfSupplied hbcast f.master _ fun x =>
    endsBy_setWithParity hbcast MASTER MASTER_P (by decide) (by decide) x
  have hslave := endsBy_setIfSupplied hmaster f.slave _ fun x =>
    endsBy_setWithParityAck hmaster SLAVE SLAVE_P SLAVE_A (by decide) (by decide) (by decide) x
  exact endsBy_setIfSupplied hslave f.control _ fun x =>
    endsBy_setWithParityAck hslave CTRL CTRL_P CTRL_A (by decide) (by decide) (by decide) x

/-- The encode path writes nothing past the message (R71, R143). -/
theorem endsBy_encodeFields (f : Supplied) :
    EndsBy (bitLengthOfMessage (f.data.getD []).length) (encodeFields f) := by
  rw [encodeFields_eq]
  have hheader := endsBy_encodeHeader f
  cases f.data with
  | none => exact hheader.mono (by decide)
  | some d =>
    have hn : headerBits ≤ bitLengthOfMessage d.length := Nat.le_add_right _ _
    have hlength := endsBy_setWithParityAck (hheader.mono (by decide : _ ≤ headerBits)) LEN LEN_P LEN_A
      (by decide) (by decide) (by decide) (BitVec.ofNat 32 d.length)
    exact endsBy_setDataUnits d _ 0 _ (hlength.mono hn) (by simp)

/-- The encode path stores the number of data bytes in LEN (R141, R143). -/
theorem dataLength_encodeFields (f : Supplied) (hf : ∀ d ∈ f.data, d.length ≤ maxData) :
    dataLength (encodeFields f) = (f.data.getD []).length := by
  rw [encodeFields_eq]
  have hheader := endsBy_encodeHeader f
  cases hd : f.data with
  | none => exact hheader.dataLength_eq_zero
  | some d =>
    have hlen : d.length ≤ 64 := hf d hd
    have hval : (BitVec.ofNat 32 d.length).toNat = d.length := by
      rw [BitVec.toNat_ofNat, Nat.mod_eq_of_lt (by omega)]
    rw [setData, dataLength_setDataUnits d _ (setWithParityAck_wf _ _ _ _ hheader.1 _) 0, dataLength,
      getField_setWithParityAck_same _ hheader.1 LEN LEN_P LEN_A (by decide) (by decide) (by decide)
        (by decide) (by decide) _ (by rw [hval]; simp only [LEN]; omega), hval]
    rfl

/-- The encode path builds a message buffer as R33 has it. -/
theorem messageOk_encodeFields (f : Supplied) (hf : ∀ d ∈ f.data, d.length ≤ maxData) :
    MessageOk (encodeFields f) := by
  have hlen : (f.data.getD []).length ≤ maxData := by
    cases hd : f.data with
    | none => exact Nat.zero_le _
    | some d => exact hf d hd
  have hend : EndsBy (8 * maxMsgBytes) (encodeFields f) := by
    refine (endsBy_encodeFields f).mono ?_
    simp only [bitLengthOfMessage, headerBits, dataStride, maxMsgBytes, byteLengthOfMessage, ceilDiv8,
      maxData] at hlen ⊢
    omega
  exact ⟨hend.1, hend.address_lt, dataLength_encodeFields f hf ▸ hlen⟩

/-- The copy of a byte string that fits and declares a length that fits (R146). -/
theorem messageOk_ofBytes (inp : List Byte) (hinp : inp.length ≤ maxMsgBytes)
    (hlen : dataLength (Memory.ofBytes inp) ≤ maxData) : MessageOk (Memory.ofBytes inp) := by
  refine ⟨ofBytes_wf inp, fun c hc => ?_, hlen⟩
  obtain ⟨-, hlt⟩ := mem_ofBytesFrom 0 inp c hc
  omega

theorem messageOk_nil : MessageOk [] := by decide

end Sys2Proof.Machine
end

section
/-! Everything an instruction, a command and a step can do, said once (`Ends`, `runCommand_cases`,
`step_cases`). -/
namespace Sys2Proof.Machine

/-! What the operand forms give a constructor. -/

/-- Every data field BUILD_FIELDS accepts has at most 64 bytes (R142). -/
theorem parseFields_ok_data (mask bcast master slave control : Word32) (inp : List Byte)
    (f : Supplied) (h : parseFields mask bcast master slave control inp = .ok f) :
    ∀ d ∈ f.data, d.length ≤ maxData := by
  simp only [parseFields] at h
  split_ifs at h with _ hrange
  cases h
  simp only [Supplied.inRange, Bool.and_eq_true] at hrange
  intro d hd
  have hfit := hrange.2
  rw [hd] at hfit
  simpa using hfit

/-- The data tokens BUILD_TOKENS accepts are at most 64 (R144). -/
theorem parseTokens_ok_data (inp : List Byte) (f : Supplied) (h : parseTokens inp = .ok f) :
    ∀ d ∈ f.data, d.length ≤ maxData := by
  simp only [parseTokens] at h
  split_ifs at h with _ _ hcount
  cases h
  intro d hd
  cases hd
  simpa using hcount

/-- The checks of DECODE_BYTES all pass (R146). -/
abbrev Decodable (inp : List Byte) : Prop :=
  ¬ (inp.length < 6 ∨ 86 < inp.length ∨ 64 < dataLength (Memory.ofBytes inp) ∨
    inp.length < byteLengthOfMessage (dataLength (Memory.ofBytes inp)))

/-- An encode-path command that completes builds the buffer `w` (R142, R144). -/
inductive Encodes : Instr → Memory → Prop
  | buildFields {mask bcast master slave control inp f}
      (h : parseFields mask bcast master slave control inp = .ok f) :
      Encodes (.buildFields mask bcast master slave control inp) (encodeFields f)
  | buildTokens {inp f} (h : parseTokens inp = .ok f) : Encodes (.buildTokens inp) (encodeFields f)

theorem Encodes.messageOk {i : Instr} {w : Memory} (h : Encodes i w) : MessageOk w := by
  cases h with
  | buildFields h => exact messageOk_encodeFields _ (parseFields_ok_data _ _ _ _ _ _ _ h)
  | buildTokens h => exact messageOk_encodeFields _ (parseTokens_ok_data _ _ h)

theorem Encodes.exec_eq {i : Instr} {w : Memory} (h : Encodes i w) (s : State) :
    exec i s = .next (completedWith (getField w LEN) 0 [] (s.commitMessage w)) := by
  cases h with
  | buildFields h => rw [exec, execBuildFields, h, buildMessage_ok]
  | buildTokens h => rw [exec, execBuildTokens, h, buildMessage_ok]

theorem Decodable.messageOk {inp : List Byte} (h : Decodable inp) : MessageOk (Memory.ofBytes inp) := by
  have hcount : maxMsgBytes = 86 := rfl
  exact messageOk_ofBytes inp (by omega) (Nat.le_of_not_lt fun hlt => h (.inr (.inr (.inl hlt))))

theorem Decodable.exec_eq {inp : List Byte} (h : Decodable inp) (s : State) :
    exec (.decodeBytes inp) s =
      .next (judgedWith (findings (Memory.ofBytes inp)) (s.commitMessage (Memory.ofBytes inp))) := by
  rw [exec, execDecodeBytes_eq, if_neg h]

/-- What a command may put in OUT: a view of MSG, or bytes counted against `OUT_CAP` (R41). -/
abbrev Delivers (s : State) (o : List Byte) : Prop :=
  o.length ≤ s.params.outCap ∨ o ∈ [byteView s.msg, displayString s.msg, adjustedData s.msg]

/-- Everything an instruction can do: the states in which `exec i s` can leave the block. -/
inductive Ends (s : State) : Instr → State → Prop
  /-- The abort rule (R247). -/
  | aborted (i : Instr) (e : ErrorCode) : Ends s i (abortedWith (errorIndex e) s)
  /-- Only the response registers are written. -/
  | answered {i : Instr} {r0 r1 : Word32} {o : List Byte} (ho : Delivers s o) :
      Ends s i (completedWith r0 r1 o s)
  /-- VALIDATE (R148). -/
  | validated : Ends s .validate (judgedWith (findings s.msg) s)
  /-- BUILD_FIELDS or BUILD_TOKENS commits its message (R142, R144). -/
  | encoded {i : Instr} {w : Memory} (h : Encodes i w) :
      Ends s i (completedWith (getField w LEN) 0 [] (s.commitMessage w))
  /-- DECODE_BYTES commits the verbatim copy (R146). -/
  | decoded {inp : List Byte} (h : Decodable inp) :
      Ends s (.decodeBytes inp)
        (judgedWith (findings (Memory.ofBytes inp)) (s.commitMessage (Memory.ofBytes inp)))
  /-- BATCH_CLEAR (R210). -/
  | cleared : Ends s .batchClear (completedWith 0 0 [] (s.setBatch []))
  /-- BATCH_APPEND of a held message to a batch that is not full (R211). -/
  | appended {ts : Word32} (hv : s.msgValid = true) (hfull : s.batch.length ≠ s.params.maxBatch) :
      Ends s (.batchAppend ts)
        (completedWith (countResult (s.batch.length + 1)) 0 [] (s.setBatch (s.batch ++ [⟨ts, s.msg⟩])))

/-- `r` is a next state that the instruction can leave. -/
abbrev Allowed (i : Instr) (s : State) (r : Result) : Prop := ∃ t, r = .next t ∧ Ends s i t

theorem allowed_raise (i : Instr) (e : ErrorCode) (s : State) : Allowed i s (raise e s) :=
  ⟨_, raise_eq e s, .aborted i e⟩

theorem allowed_finish (i : Instr) (r0 r1 : Word32) (o : List Byte) (s : State) (ho : Delivers s o) :
    Allowed i s (finish .ok { res0 := r0, res1 := r1, out := o } s) :=
  ⟨_, finish_ok r0 r1 o s, .answered ho⟩

theorem allowed_withMessage (i : Instr) (s : State) (k : Memory → Result)
    (hk : s.msgValid = true → Allowed i s (k s.msg)) : Allowed i s (withMessage s k) := by
  cases hv : s.msgValid with
  | false => exact ⟨_, withMessage_invalid s k hv, .aborted i .noMessage⟩
  | true => exact withMessage_valid s k hv ▸ hk hv

theorem allowed_deliverSamples (i : Instr) (x : List Sample) (s : State) :
    Allowed i s (deliverSamples x s) := by
  refine ⟨_, deliverSamples_eq x s, ?_⟩
  split
  · exact .aborted i .capacityError
  · next h => exact .answered (.inl (by simpa using h))

theorem allowed_buildMessage (i : Instr) (operands : Except ErrorCode Supplied) (s : State)
    (hi : ∀ f, operands = .ok f → Encodes i (encodeFields f)) :
    Allowed i s (buildMessage operands s) := by
  cases operands with
  | error e => exact ⟨_, buildMessage_error e s, .aborted i e⟩
  | ok f => exact ⟨_, buildMessage_ok f s, .encoded (hi f rfl)⟩

theorem allowed_fieldRead (offset length : Word32) (s : State) :
    Allowed (.fieldRead offset length) s (execFieldRead offset length s) := by
  simp only [execFieldRead]
  refine allowed_withMessage _ s _ fun _ => ?_
  split
  · split
    · exact allowed_raise _ _ s
    · exact allowed_finish _ _ _ _ s (.inl (Nat.zero_le _))
  · exact allowed_raise _ _ s

theorem allowed_decodeBytes (inp : List Byte) (s : State) :
    Allowed (.decodeBytes inp) s (execDecodeBytes inp s) := by
  refine ⟨_, execDecodeBytes_eq inp s, ?_⟩
  split
  · exact .aborted _ .decodeError
  · next h => exact .decoded h

theorem allowed_validate (s : State) : Allowed .validate s (execValidate s) := by
  refine allowed_withMessage _ s _ fun _ => ?_
  exact ⟨_, finish_verdict _ s, .validated⟩

theorem allowed_asBytes (s : State) : Allowed .asBytes s (execAsBytes s) := by
  refine allowed_withMessage _ s _ fun _ => ?_
  exact allowed_finish _ _ _ (byteView s.msg) s (.inr (by simp))

theorem allowed_display (s : State) : Allowed .display s (execDisplay s) := by
  refine allowed_withMessage _ s _ fun _ => ?_
  exact allowed_finish _ _ _ (displayString s.msg) s (.inr (by simp))

theorem allowed_decodeView (s : State) : Allowed .decodeView s (execDecodeView s) := by
  refine allowed_withMessage _ s _ fun _ => ?_
  exact allowed_finish _ _ _ (adjustedData s.msg) s (.inr (by simp))

theorem allowed_encodeSignal (s : State) : Allowed .encodeSignal s (execEncodeSignal s) := by
  refine allowed_withMessage _ s _ fun _ => ?_
  exact allowed_deliverSamples _ _ s

theorem allowed_batchAppend (ts : Word32) (s : State) :
    Allowed (.batchAppend ts) s (execBatchAppend ts s) := by
  refine allowed_withMessage _ s _ fun hv => ?_
  split
  · exact allowed_raise _ _ s
  · next hfull =>
    simp only [List.length_append, List.length_singleton]
    exact ⟨_, finish_ok _ _ _ _, .appended hv hfull⟩

theorem allowed_compose (interval glitch : Word32) (s : State) :
    Allowed (.compose interval glitch) s (execCompose interval glitch s) := by
  simp only [execCompose]
  split
  · exact allowed_raise _ _ s
  · split_ifs with _ _ hcap
    · exact allowed_raise _ _ s
    · exact allowed_raise _ _ s
    · exact allowed_raise _ _ s
    · exact allowed_finish _ _ _ _ s (.inl (by simpa [frameSamples_length] using hcap))

theorem allowed_packSamples (inp : List Byte) (s : State) :
    Allowed (.packSamples inp) s (execPackSamples inp s) := by
  rw [execPackSamples]
  split
  · exact allowed_raise _ _ s
  · exact allowed_deliverSamples _ _ s

/-- Every instruction answers a next state, and one of those `Ends` lists. -/
theorem exec_allowed (i : Instr) (s : State) : Allowed i s (exec i s) := by
  cases i with
  | fieldRead offset length => exact allowed_fieldRead offset length s
  | parity value => exact allowed_finish _ _ _ _ s (.inl (Nat.zero_le _))
  | buildFields => exact allowed_buildMessage _ _ s fun _ h => .buildFields h
  | buildTokens => exact allowed_buildMessage _ _ s fun _ h => .buildTokens h
  | decodeBytes inp => exact allowed_decodeBytes inp s
  | validate => exact allowed_validate s
  | asBytes => exact allowed_asBytes s
  | display => exact allowed_display s
  | decodeView => exact allowed_decodeView s
  | encodeSignal => exact allowed_encodeSignal s
  | batchClear => exact ⟨_, finish_ok 0 0 [] _, .cleared⟩
  | batchAppend ts => exact allowed_batchAppend ts s
  | compose interval glitch => exact allowed_compose interval glitch s
  | packSamples inp => exact allowed_packSamples inp s

theorem exec_ends (i : Instr) (s t : State) (h : exec i s = .next t) : Ends s i t := by
  obtain ⟨u, hu, hends⟩ := exec_allowed i s
  rw [hu, Host.Outcome.next.injEq] at h
  exact h ▸ hends

/-! A command, and a step. -/

theorem runCommand_of_decode (c : Command) (i : Instr) (h : decode c = .ok i) (s : State) :
    runCommand c s = exec i s := by
  rw [runCommand, h]

/-- A command runs its instruction, or its opcode is unassigned and it aborts (R249). -/
theorem runCommand_cases (c : Command) (s t : State) (h : runCommand c s = .next t) :
    (∃ i, decode c = .ok i ∧ Ends s i t) ∨ t = abortedWith (errorIndex .illegalCommand) s := by
  cases hd : decode c with
  | ok i =>
    rw [runCommand_of_decode c i hd] at h
    exact .inl ⟨i, rfl, exec_ends i s t h⟩
  | error r =>
    rw [runCommand, hd] at h
    exact .inr ((raise_next _ s t).1 h)

/-- A step idles, takes a reset, or takes one command (R69, R270, R271). -/
theorem step_cases (s t : State) (h : step s = .next t) :
    (s.pending = [] ∧ t = s) ∨
    (∃ rest, s.pending = .reset :: rest ∧ t = takeReset (s.setPending rest)) ∨
    ∃ c rest, s.pending = .command c :: rest ∧ runCommand c (s.setPending rest) = .next t := by
  rw [step] at h
  split at h
  · next hp => exact .inl ⟨hp, by rw [idle_eq, Host.Outcome.next.injEq] at h; exact h.symm⟩
  · next rest hp => exact .inr (.inl ⟨rest, hp, by rw [Host.Outcome.next.injEq] at h; exact h.symm⟩)
  · next c rest hp => exact .inr (.inr ⟨c, rest, hp, h⟩)

/-- The opcode of a command is that of the instruction it names (R80, R83). -/
theorem opc_of_decode (c : Command) (i : Instr) (h : decode c = .ok i) : c.opc = (encode i).opc := by
  rw [decode] at h
  split at h <;> cases h <;> assumption

theorem arg0_of_decode_batchAppend (c : Command) (ts : Word32) (h : decode c = .ok (.batchAppend ts)) :
    c.arg0 = ts := by
  have hopc : c.opc = 0x31#8 := opc_of_decode c _ h
  simpa [decode, hopc] using h

end Sys2Proof.Machine
end

section
/-! The invariant of the block, and which commands write which state (R33 to R42, R49, R50). -/
namespace Sys2Proof.Machine

/-! The lengths of the views of a message (R149 to R151). -/

theorem hexDigits_length (n v : Nat) : (hexDigits n v).length = n := by
  induction n with
  | zero => rfl
  | succ n ih => rw [hexDigits, List.length_cons, ih]

theorem decimal2_length_le (v : Nat) : (decimal2 v).length ≤ 3 := by
  rw [decimal2]
  split_ifs <;> simp

theorem dataBytes_length (m : Memory) : (dataBytes m).length = dataLength m := by simp [dataBytes]

theorem displayString_length_le (m : Memory) : (displayString m).length ≤ 17 + 3 * dataLength m := by
  have hdec := decimal2_length_le (dataLength m)
  simp [displayString, hexDigits_length, dataBytes_length, List.length_flatMap]
  omega

theorem adjustedData_length_le (m : Memory) : (adjustedData m).length ≤ dataLength m := by
  rw [adjustedData, ← dataBytes_length]
  split <;> simp

/-- What a command delivers fits OUT when the message and the parameters are as R33 and R9 have them. -/
theorem Delivers.length_le {s : State} {o : List Byte} (h : Delivers s o) (hp : s.params.Legal)
    (hm : dataLength s.msg ≤ maxData) : o.length ≤ s.params.outCap := by
  obtain ⟨-, -, hcap, -⟩ := hp
  have hlen : dataLength s.msg ≤ 64 := hm
  have hbytes : (byteView s.msg).length = (44 + 10 * dataLength s.msg + 7) / 8 := bytes_length _ _ _
  have hdisplay := displayString_length_le s.msg
  have hadjusted := adjustedData_length_le s.msg
  rcases h with h | h
  · exact h
  · simp only [List.mem_cons, List.not_mem_nil, or_false] at h
    rcases h with rfl | rfl | rfl <;> omega

/-! The invariant through the operations that make up a step. -/

theorem statusByte_error_mem (e : ErrorCode) : BitVec.ofNat 8 (0x10 + errorIndex e) ∈ statusCodes := by
  cases e <;> decide

/-- An error sets no reserved sticky bit (R37). -/
theorem sticky_error_reserved (e : ErrorCode) : (1#16 <<< errorIndex e) &&& 0x7000#16 = 0 := by
  cases e <;> decide

theorem reserved_or (a b : BitVec 16) (ha : a &&& 0x7000#16 = 0) (hb : b &&& 0x7000#16 = 0) :
    (a ||| b) &&& 0x7000#16 = 0 := by
  rw [BitVec.and_comm, BitVec.and_or_distrib_left, BitVec.and_comm _ a, BitVec.and_comm _ b, ha, hb]
  rfl

theorem blockInv_setPending {s : State} (h : BlockInv s) (rest : List HostEvent) :
    BlockInv (s.setPending rest) := h

theorem blockInv_resetWith (p : Params) (hp : p.Legal) : BlockInv (State.resetWith p) :=
  ⟨hp, messageOk_nil, by simp, by simp, Nat.zero_le _, Nat.zero_le _, .head _, by simp,
    fun hf => absurd rfl hf⟩

theorem blockInv_takeReset {s : State} (h : BlockInv s) : BlockInv (takeReset s) :=
  blockInv_setPending (blockInv_resetWith s.params h.1) s.pending

theorem blockInv_abortedWith {s : State} (h : BlockInv s) (e : ErrorCode) :
    BlockInv (abortedWith (errorIndex e) s) := by
  obtain ⟨hparams, hmsg, hbatch, hnone, hcount, -, -, hsticky, -⟩ := h
  exact ⟨hparams, hmsg, hbatch, hnone, hcount, Nat.zero_le _, statusByte_error_mem e,
    reserved_or _ _ hsticky (sticky_error_reserved e), fun hf => absurd rfl hf⟩

theorem blockInv_completedWith {s : State} (h : BlockInv s) (r0 r1 : Word32) (o : List Byte)
    (ho : o.length ≤ s.params.outCap) : BlockInv (completedWith r0 r1 o s) := by
  obtain ⟨hparams, hmsg, hbatch, hnone, hcount, -, -, hsticky, -⟩ := h
  exact ⟨hparams, hmsg, hbatch, hnone, hcount, ho, .head _, hsticky, fun hf => absurd rfl hf⟩

theorem blockInv_judgedWith {s : State} (h : BlockInv s) (f : BitVec 68) :
    BlockInv (judgedWith f s) := by
  obtain ⟨hparams, hmsg, hbatch, hnone, hcount, -, -, hsticky, -⟩ := h
  by_cases hf : f = 0
  · subst hf
    exact ⟨hparams, hmsg, hbatch, hnone, hcount, Nat.zero_le _, .head _, hsticky,
      fun hf => absurd rfl hf⟩
  · simp only [BlockInv, judgedWith, if_neg hf]
    exact ⟨hparams, hmsg, hbatch, hnone, hcount, Nat.zero_le _, .tail _ (.head _),
      reserved_or _ _ hsticky (by decide), fun _ => trivial⟩

theorem blockInv_commitMessage {s : State} (h : BlockInv s) (w : Memory) (hw : MessageOk w) :
    BlockInv (s.commitMessage w) := by
  obtain ⟨hparams, -, hbatch, -, hrest⟩ := h
  exact ⟨hparams, hw, hbatch, by simp, hrest⟩

theorem blockInv_clearBatch {s : State} (h : BlockInv s) : BlockInv (s.setBatch []) := by
  obtain ⟨hparams, hmsg, -, hnone, -, hrest⟩ := h
  exact ⟨hparams, hmsg, by simp, fun hv => ⟨(hnone hv).1, rfl⟩, Nat.zero_le _, hrest⟩

theorem blockInv_appendBatch {s : State} (h : BlockInv s) (ts : Word32) (hv : s.msgValid = true)
    (hfull : s.batch.length ≠ s.params.maxBatch) :
    BlockInv (s.setBatch (s.batch ++ [⟨ts, s.msg⟩])) := by
  obtain ⟨hparams, hmsg, hbatch, -, hcount, hrest⟩ := h
  refine ⟨hparams, hmsg, fun e he => ?_, fun hf => ?_, ?_, hrest⟩
  · simp only [setBatch_batch, List.mem_append, List.mem_singleton] at he
    rcases he with he | rfl
    · exact hbatch e he
    · exact hmsg
  · rw [setBatch_msgValid, hv] at hf
    cases hf
  · simp only [setBatch_batch, setBatch_params, List.length_append, List.length_singleton]
    omega

/-- Every way an instruction can end keeps the invariant. -/
theorem blockInv_of_ends {i : Instr} {s t : State} (h : BlockInv s) (he : Ends s i t) : BlockInv t := by
  cases he with
  | aborted _ e => exact blockInv_abortedWith h e
  | answered ho =>
    obtain ⟨hparams, ⟨-, -, hlen⟩, -⟩ := id h
    exact blockInv_completedWith h _ _ _ (ho.length_le hparams hlen)
  | validated => exact blockInv_judgedWith h _
  | encoded hw =>
    exact blockInv_completedWith (blockInv_commitMessage h _ hw.messageOk) _ _ _ (Nat.zero_le _)
  | decoded hd => exact blockInv_judgedWith (blockInv_commitMessage h _ hd.messageOk) _
  | cleared => exact blockInv_completedWith (blockInv_clearBatch h) _ _ _ (Nat.zero_le _)
  | appended hv hfull =>
    exact blockInv_completedWith (blockInv_appendBatch h _ hv hfull) _ _ _ (Nat.zero_le _)

theorem blockInv_runCommand {c : Command} {s t : State} (h : BlockInv s)
    (hrun : runCommand c s = .next t) : BlockInv t := by
  obtain ⟨i, -, he⟩ | rfl := runCommand_cases c s t hrun
  · exact blockInv_of_ends h he
  · exact blockInv_abortedWith h .illegalCommand

/-- Settles O21: a step idles, resets or runs one command, and each keeps the invariant. -/
theorem everyStepKeepsInvariant : Obligations.EveryStepKeepsInvariant := by
  intro s t h hstep
  obtain ⟨-, rfl⟩ | ⟨rest, -, rfl⟩ | ⟨c, rest, -, hrun⟩ := step_cases s t hstep
  · exact h
  · exact blockInv_takeReset (blockInv_setPending h rest)
  · exact blockInv_runCommand (blockInv_setPending h rest) hrun

/-- Settles O20: reset meets the invariant for any legal parameters, and the reference ones are legal. -/
theorem resetMeetsInvariant : Obligations.ResetMeetsInvariant :=
  blockInv_resetWith Params.reference (by decide)

/-- Settles O1: the fields of the reset state evaluate to R50's values. -/
theorem resetStateHoldsResetValues : Obligations.ResetStateHoldsResetValues :=
  ⟨read_nil, rfl, rfl, rfl, rfl, rfl, rfl, rfl, rfl⟩

/-! What a command leaves unchanged. -/

/-- No command changes a parameter or what the host has issued after it (R47). -/
theorem Ends.frame {i : Instr} {s t : State} (h : Ends s i t) :
    t.params = s.params ∧ t.pending = s.pending := by
  cases h <;> exact ⟨rfl, rfl⟩

/-- Settles O17: each of the three kinds of step takes the head of the events, and no command touches
the parameters. -/
theorem stepTakesOneEventAndKeepsParameters : Obligations.StepTakesOneEventAndKeepsParameters := by
  intro s t hstep
  obtain ⟨hp, rfl⟩ | ⟨rest, hp, rfl⟩ | ⟨c, rest, hp, hrun⟩ := step_cases s t hstep
  · exact ⟨by rw [hp]; rfl, rfl⟩
  · exact ⟨by rw [hp]; rfl, rfl⟩
  · obtain ⟨i, -, he⟩ | rfl := runCommand_cases c _ t hrun
    · obtain ⟨hparams, hpending⟩ := he.frame
      exact ⟨by rw [hpending, hp]; rfl, hparams⟩
    · exact ⟨by rw [hp]; rfl, rfl⟩

/-- How an instruction can leave BATCH (R35, R49, R210, R211). -/
theorem Ends.batch_cases {i : Instr} {s t : State} (h : Ends s i t) :
    t.batch = s.batch ∨ (i = .batchClear ∧ t.batch = []) ∨
    ∃ ts, i = .batchAppend ts ∧ s.msgValid = true ∧ t.batch = s.batch ++ [⟨ts, s.msg⟩] := by
  cases h with
  | cleared => exact .inr (.inl ⟨rfl, rfl⟩)
  | appended hv => exact .inr (.inr ⟨_, rfl, hv, rfl⟩)
  | _ => exact .inl rfl

/-- Settles O14: `Ends.batch_cases`, with the command's opcode and operand read back from its decoding. -/
theorem onlyBatchCommandsWriteBatch : Obligations.OnlyBatchCommandsWriteBatch := by
  intro s t hstep
  obtain ⟨-, rfl⟩ | ⟨rest, hp, rfl⟩ | ⟨c, rest, hp, hrun⟩ := step_cases s t hstep
  · exact .inl rfl
  · exact .inr (.inl ⟨by rw [hp]; rfl, rfl⟩)
  · obtain ⟨i, hd, he⟩ | rfl := runCommand_cases c _ t hrun
    · obtain hb | ⟨rfl, hb⟩ | ⟨ts, rfl, hv, hb⟩ := he.batch_cases
      · exact .inl hb
      · exact .inr (.inr ⟨c, by rw [hp]; rfl, .inl ⟨opc_of_decode c _ hd, hb⟩⟩)
      · have harg := arg0_of_decode_batchAppend c ts hd
        exact .inr (.inr ⟨c, by rw [hp]; rfl, .inr ⟨opc_of_decode c _ hd, hv, harg ▸ hb⟩⟩)
    · exact .inl rfl

theorem Encodes.opc_mem {i : Instr} {w : Memory} (h : Encodes i w) :
    (encode i).opc ∈ [0x10#8, 0x11#8] := by
  cases h <;> simp [encode]

theorem judgedWith_status (f : BitVec 68) (s : State) :
    (judgedWith f s).status = 0x00 ∨ (judgedWith f s).status = 0x01 := by
  simp only [judgedWith]
  split
  · exact .inl rfl
  · exact .inr rfl

/-- How an instruction can leave MSG: as it was, or a constructor completed, and then the new MSG is the
same whatever state the constructor ran in (R34, R140). -/
theorem Ends.message_cases {i : Instr} {s t : State} (h : Ends s i t) :
    (t.msg = s.msg ∧ t.msgValid = s.msgValid) ∨
    ((encode i).opc ∈ [0x10#8, 0x11#8, 0x12#8] ∧ t.msgValid = true ∧
      (t.status = 0x00 ∨ t.status = 0x01) ∧ ∀ s', ∃ u, exec i s' = .next u ∧ u.msg = t.msg) := by
  cases h with
  | encoded hw =>
    have hopc : (encode i).opc = 0x10#8 ∨ (encode i).opc = 0x11#8 := by simpa using hw.opc_mem
    exact .inr ⟨by simpa using hopc.imp_right .inl, rfl, .inl rfl, fun s' => ⟨_, hw.exec_eq s', rfl⟩⟩
  | decoded hd =>
    exact .inr ⟨by simp [encode], rfl, judgedWith_status _ _, fun s' => ⟨_, hd.exec_eq s', rfl⟩⟩
  | _ => exact .inl ⟨rfl, rfl⟩

/-- Settles O13: `Ends.message_cases`, and the completed constructor run again with another MSG. -/
theorem onlyCompletedConstructorsReplaceMessage :
    Obligations.OnlyCompletedConstructorsReplaceMessage := by
  intro s t hstep
  obtain ⟨-, rfl⟩ | ⟨rest, hp, rfl⟩ | ⟨c, rest, hp, hrun⟩ := step_cases s t hstep
  · exact .inl ⟨rfl, rfl⟩
  · exact .inr (.inl ⟨by rw [hp]; rfl, read_nil, rfl⟩)
  · obtain ⟨i, hd, he⟩ | rfl := runCommand_cases c _ t hrun
    · obtain hkept | ⟨hopc, hvalid, hstatus, hnew⟩ := he.message_cases
      · exact .inl hkept
      · refine .inr (.inr ⟨c, by rw [hp]; rfl, opc_of_decode c i hd ▸ hopc, hvalid, hstatus, ?_⟩)
        intro m
        rw [runCommand_of_decode c i hd]
        exact hnew _
    · exact .inl ⟨rfl, rfl⟩

end Sys2Proof.Machine
end

section
/-! Two runs of a command from states that differ in earlier responses only (R42, R275). -/
namespace Sys2Proof.Machine

/-! What a command answers depends on no earlier response (R42, R275): two runs side by side. -/

/-- The two states agree on everything a command may read. -/
structure SameInputs (s s' : State) : Prop where
  msg : s.msg = s'.msg
  msgValid : s.msgValid = s'.msgValid
  batch : s.batch = s'.batch
  params : s.params = s'.params

/-- The two states agree on the response of the command that ended in them. -/
structure SameResponse (t t' : State) : Prop where
  status : t.status = t'.status
  res0 : t.res0 = t'.res0
  res1 : t.res1 = t'.res1
  vfind : t.vfind = t'.vfind
  out : t.out = t'.out

/-- Both answers are next states, and they agree on the response and on what later commands read. -/
def SameAnswer (r r' : Result) : Prop :=
  ∃ t t', r = .next t ∧ r' = .next t' ∧ SameResponse t t' ∧ SameInputs t t'

section
variable {s s' : State} (h : SameInputs s s')
include h

theorem SameInputs.commitMessage (w : Memory) :
    SameInputs (s.commitMessage w) (s'.commitMessage w) :=
  ⟨rfl, rfl, h.batch, h.params⟩

theorem SameInputs.setBatch (b : List BatchEntry) : SameInputs (s.setBatch b) (s'.setBatch b) :=
  ⟨h.msg, h.msgValid, rfl, h.params⟩

theorem sameAnswer_finish (code : StatusCode) (r : Response) :
    SameAnswer (finish code r s) (finish code r s') :=
  ⟨_, _, rfl, rfl, ⟨rfl, rfl, rfl, rfl, rfl⟩, ⟨h.msg, h.msgValid, h.batch, h.params⟩⟩

theorem sameAnswer_raise (e : ErrorCode) : SameAnswer (raise e s) (raise e s') :=
  ⟨_, _, rfl, rfl, ⟨rfl, rfl, rfl, rfl, rfl⟩, ⟨h.msg, h.msgValid, h.batch, h.params⟩⟩

theorem sameAnswer_withMessage (k k' : Memory → Result) (hk : ∀ m, SameAnswer (k m) (k' m)) :
    SameAnswer (withMessage s k) (withMessage s' k') := by
  simp only [withMessage, h.msg, h.msgValid]
  split
  · exact hk _
  · exact sameAnswer_raise h .noMessage

theorem sameAnswer_deliverSamples (x : List Sample) :
    SameAnswer (deliverSamples x s) (deliverSamples x s') := by
  simp only [deliverSamples, h.params]
  split
  · exact sameAnswer_raise h _
  · exact sameAnswer_finish h _ _

theorem sameAnswer_buildMessage (operands : Except ErrorCode Supplied) :
    SameAnswer (buildMessage operands s) (buildMessage operands s') := by
  cases operands with
  | error e => exact sameAnswer_raise h e
  | ok f => exact sameAnswer_finish (h.commitMessage _) _ _

theorem sameAnswer_fieldRead (offset length : Word32) :
    SameAnswer (execFieldRead offset length s) (execFieldRead offset length s') := by
  simp only [execFieldRead, h.params]
  refine sameAnswer_withMessage h _ _ fun m => ?_
  split
  · split
    · exact sameAnswer_raise h _
    · exact sameAnswer_finish h _ _
  · exact sameAnswer_raise h _

theorem sameAnswer_decodeBytes (inp : List Byte) :
    SameAnswer (execDecodeBytes inp s) (execDecodeBytes inp s') := by
  simp only [execDecodeBytes]
  split_ifs
  · exact sameAnswer_raise h _
  · exact sameAnswer_raise h _
  · exact sameAnswer_raise h _
  · exact sameAnswer_raise h _
  · exact sameAnswer_finish (h.commitMessage _) _ _

theorem sameAnswer_validate : SameAnswer (execValidate s) (execValidate s') := by
  refine sameAnswer_withMessage h _ _ fun m => ?_
  exact sameAnswer_finish h _ _

theorem sameAnswer_asBytes : SameAnswer (execAsBytes s) (execAsBytes s') := by
  refine sameAnswer_withMessage h _ _ fun m => ?_
  exact sameAnswer_finish h _ _

theorem sameAnswer_display : SameAnswer (execDisplay s) (execDisplay s') := by
  refine sameAnswer_withMessage h _ _ fun m => ?_
  exact sameAnswer_finish h _ _

theorem sameAnswer_decodeView : SameAnswer (execDecodeView s) (execDecodeView s') := by
  refine sameAnswer_withMessage h _ _ fun m => ?_
  exact sameAnswer_finish h _ _

theorem sameAnswer_encodeSignal : SameAnswer (execEncodeSignal s) (execEncodeSignal s') := by
  refine sameAnswer_withMessage h _ _ fun m => ?_
  exact sameAnswer_deliverSamples h _

theorem sameAnswer_batchAppend (ts : Word32) :
    SameAnswer (execBatchAppend ts s) (execBatchAppend ts s') := by
  simp only [execBatchAppend, h.batch, h.params]
  refine sameAnswer_withMessage h _ _ fun m => ?_
  split
  · exact sameAnswer_raise h _
  · exact sameAnswer_finish (h.setBatch _) _ _

theorem sameAnswer_compose (interval glitch : Word32) :
    SameAnswer (execCompose interval glitch s) (execCompose interval glitch s') := by
  simp only [execCompose, h.batch, h.params]
  cases s'.batch with
  | nil => exact sameAnswer_raise h _
  | cons first rest =>
    dsimp only
    split_ifs
    · exact sameAnswer_raise h _
    · exact sameAnswer_raise h _
    · exact sameAnswer_raise h _
    · exact sameAnswer_finish h _ _

theorem sameAnswer_packSamples (inp : List Byte) :
    SameAnswer (execPackSamples inp s) (execPackSamples inp s') := by
  simp only [execPackSamples]
  split
  · exact sameAnswer_raise h _
  · exact sameAnswer_deliverSamples h _

theorem sameAnswer_exec (i : Instr) : SameAnswer (exec i s) (exec i s') := by
  cases i with
  | fieldRead offset length => exact sameAnswer_fieldRead h offset length
  | parity value => exact sameAnswer_finish h _ _
  | buildFields => exact sameAnswer_buildMessage h _
  | buildTokens => exact sameAnswer_buildMessage h _
  | decodeBytes inp => exact sameAnswer_decodeBytes h inp
  | validate => exact sameAnswer_validate h
  | asBytes => exact sameAnswer_asBytes h
  | display => exact sameAnswer_display h
  | decodeView => exact sameAnswer_decodeView h
  | encodeSignal => exact sameAnswer_encodeSignal h
  | batchClear => exact sameAnswer_finish (h.setBatch []) _ _
  | batchAppend ts => exact sameAnswer_batchAppend h ts
  | compose interval glitch => exact sameAnswer_compose h interval glitch
  | packSamples inp => exact sameAnswer_packSamples h inp

theorem sameAnswer_runCommand (c : Command) : SameAnswer (runCommand c s) (runCommand c s') := by
  simp only [runCommand]
  split
  · exact sameAnswer_exec h _
  · exact sameAnswer_raise h .illegalCommand

end

/-- Settles O16: the two runs of the command end in states with the same response. -/
theorem responseIgnoresEarlierResponses : Obligations.ResponseIgnoresEarlierResponses := by
  intro c s s' t t' hmsg hvalid hbatch hparams hrun hrun'
  obtain ⟨u, u', hu, hu', hresp, hkept⟩ :=
    sameAnswer_runCommand ⟨hmsg, hvalid, hbatch, hparams⟩ c
  rw [hrun, Host.Outcome.next.injEq] at hu
  rw [hrun', Host.Outcome.next.injEq] at hu'
  subst hu hu'
  exact ⟨hresp.status, hresp.res0, hresp.res1, hresp.vfind, hresp.out, hkept.msg, hkept.msgValid,
    hkept.batch⟩

end Sys2Proof.Machine
end

section
/-! One command step: which command runs, and on which state (R73, R80). -/
namespace Sys2Proof.Machine

/-- A step whose next event is a command takes that event and runs the command (R73, R274). -/
theorem step_of_command {s : State} {c : Command} {rest : List HostEvent}
    (h : s.pending = .command c :: rest) : step s = runCommand c (s.setPending rest) := by
  rw [step, h]

/-- Settles O4: the step takes the command off the events, and a command that decodes is its
instruction's `exec` (`runCommand_of_decode`). -/
theorem stepRunsDecodedCommand : Obligations.StepRunsDecodedCommand := by
  intro s c rest hp
  have hstep : step s = runCommand c (s.setPending rest) := step_of_command hp
  refine ⟨hstep, fun i hi => ?_⟩
  calc step s = runCommand c (s.setPending rest) := hstep
    _ = exec i (s.setPending rest) := runCommand_of_decode c i hi _

end Sys2Proof.Machine
end

section
/-! The numeric form of a transaction, the decoder and the named layouts (R80, R83, R87, R92). -/
namespace Sys2Proof

/-- The decoder gives back every encoded instruction (R83). -/
theorem decode_encode (i : Instr) : decode (encode i) = .ok i := by
  cases i with
  | fieldRead offset length => exact Laws.DecodeEncode.fieldRead offset length
  | parity value => exact Laws.DecodeEncode.parity value
  | buildFields mask bcast master slave control inp =>
    exact Laws.DecodeEncode.buildFields mask bcast master slave control inp
  | buildTokens inp => exact Laws.DecodeEncode.buildTokens inp
  | decodeBytes inp => exact Laws.DecodeEncode.decodeBytes inp
  | validate => exact Laws.DecodeEncode.validate
  | asBytes => exact Laws.DecodeEncode.asBytes
  | display => exact Laws.DecodeEncode.display
  | decodeView => exact Laws.DecodeEncode.decodeView
  | encodeSignal => exact Laws.DecodeEncode.encodeSignal
  | batchClear => exact Laws.DecodeEncode.batchClear
  | batchAppend timestamp => exact Laws.DecodeEncode.batchAppend timestamp
  | compose interval glitch => exact Laws.DecodeEncode.compose interval glitch
  | packSamples inp => exact Laws.DecodeEncode.packSamples inp

theorem decodeTableWord_eq_some {nbits w : Nat} {i : Instr} :
    decodeTableWord nbits w = some i ↔ decode (Command.ofWord nbits w) = .ok i := by
  rw [decodeTableWord]
  split <;> simp_all

theorem bytesToNat_lt (x : List Byte) : bytesToNat x < 2 ^ (8 * x.length) := by
  induction x with
  | nil => exact Nat.one_pos
  | cons b x ih =>
    have hb := b.isLt
    have hpow : 2 ^ (8 * (x.length + 1)) = 256 * 2 ^ (8 * x.length) := by ring
    rw [bytesToNat, List.length_cons, hpow]
    omega

/-- The bytes of IN survive being one number. -/
theorem natToBytes_bytesToNat (x : List Byte) : natToBytes x.length (bytesToNat x) = x := by
  induction x with
  | nil => rfl
  | cons b x ih =>
    have hb := b.isLt
    have hlow : BitVec.ofNat 8 (b.toNat + 256 * bytesToNat x) = b :=
      BitVec.eq_of_toNat_eq (by rw [BitVec.toNat_ofNat]; omega)
    have hrest : (b.toNat + 256 * bytesToNat x) / 256 = bytesToNat x := by omega
    rw [List.length_cons, bytesToNat, natToBytes, hlow, hrest, ih]

/-- A transaction is a number of as many bits as it has. -/
theorem Command.toWord_lt (c : Command) : c.toWord < 2 ^ c.bits := by
  obtain ⟨opc, arg0, arg1, arg2, arg3, arg4, inp⟩ := c
  have hinp := bytesToNat_lt inp
  simp only [toWord, bits, headBits, pow_add]
  omega

/-- A transaction is read back from its number (entry 2): each part is the bits from its position on. -/
theorem Command.ofWord_toWord (c : Command) : ofWord c.bits c.toWord = c := by
  have hcount : (c.bits - headBits) / 8 = c.inp.length := by simp only [bits]; omega
  have hinp : c.toWord / 2 ^ 168 = bytesToNat c.inp := by simp only [toWord]; omega
  rw [ofWord, Nat.mod_eq_of_lt c.toWord_lt, hcount, hinp, natToBytes_bytesToNat]
  obtain ⟨opc, arg0, arg1, arg2, arg3, arg4, inp⟩ := c
  congr 1 <;>
    exact BitVec.eq_of_toNat_eq (by simp only [BitVec.toNat_ofNat, toWord]; omega)

/-- Settles O8: the number gives back the transaction, and the transaction the instruction. -/
theorem decodeOfEncodedWordIsTheInstruction : Obligations.DecodeOfEncodedWordIsTheInstruction := by
  intro i
  rw [decodeTableWord_eq_some, Command.ofWord_toWord, decode_encode]

end Sys2Proof

namespace Sys2Proof.Machine

/-- Settles O5: the issued transaction is the step's first event, and taking it off the events leaves
the state it was issued on. -/
theorem issuedWordRunsNext : Obligations.IssuedWordRunsNext := by
  intro s nbits w i h
  have hdecode := decodeTableWord_eq_some.1 h
  calc step (s.withFetchWord nbits w)
      = runCommand (Command.ofWord nbits w) ((s.withFetchWord nbits w).setPending s.pending) :=
        step_of_command rfl
    _ = exec i s := runCommand_of_decode _ i hdecode s

/-- Settles O7: one row of R83's table for each of the fourteen opcodes. -/
theorem opcodeMapDecodes : Obligations.OpcodeMapDecodes := fun _ _ _ _ _ _ =>
  ⟨rfl, rfl, rfl, rfl, rfl, rfl, rfl, rfl, rfl, rfl, rfl, rfl, rfl, rfl⟩

/-- Settles O59: the model writes the header layouts as R92 has them, and the layouts of data unit `i`
from HEADER_BITS and DATA_STRIDE (R91, R94). -/
theorem namedLayoutsByTable : Obligations.NamedLayoutsByTable := by
  refine ⟨rfl, rfl, rfl, rfl, rfl, rfl, rfl, rfl, rfl, rfl, rfl, rfl, fun i => ⟨rfl, ?_, ?_⟩⟩
  · rw [DATA_P, headerBits, dataStride, Nat.add_right_comm]
  · rw [DATA_A, headerBits, dataStride, Nat.add_right_comm]

end Sys2Proof.Machine
end

section
/-! Lexing of token strings: the tokens of a text, run by run (R97). -/
namespace Sys2Proof.Machine

theorem isWhitespace_iff (c : Byte) :
    isWhitespace c = true ↔ c ∈ [0x20#8, 0x09#8, 0x0A#8, 0x0B#8, 0x0C#8, 0x0D#8] := by
  simp only [isWhitespace, Bool.or_eq_true, beq_iff_eq, Bool.and_eq_true, decide_eq_true_eq,
    BitVec.le_def, List.mem_cons, List.not_mem_nil, or_false, ← BitVec.toNat_inj]
  simp only [BitVec.toNat_ofNat, BitVec.ofNat_eq_ofNat]
  omega

/-- The token that has begun, if one has. -/
def pendingToken (cur : List Byte) : List (List Byte) := if cur = [] then [] else [cur.reverse]

theorem pendingToken_reverse {run : List Byte} (h : run ≠ []) : pendingToken run.reverse = [run] := by
  simp [pendingToken, h]

theorem tokensFrom_nil (cur : List Byte) : tokensFrom cur [] = pendingToken cur := by
  cases cur <;> rfl

/-- Bytes that are not whitespace join the token that has begun. -/
theorem tokensFrom_run (run cur rest : List Byte) (h : ∀ c ∈ run, isWhitespace c = false) :
    tokensFrom cur (run ++ rest) = tokensFrom (run.reverse ++ cur) rest := by
  induction run generalizing cur with
  | nil => rfl
  | cons c run ih =>
    rw [List.forall_mem_cons] at h
    simp [tokensFrom, h.1, ih _ h.2]

/-- Whitespace ends the token that has begun. -/
theorem tokensFrom_whitespace (ws cur rest : List Byte) (hne : ws ≠ [])
    (h : ∀ c ∈ ws, isWhitespace c = true) :
    tokensFrom cur (ws ++ rest) = pendingToken cur ++ tokens rest := by
  induction ws generalizing cur with
  | nil => exact absurd rfl hne
  | cons c ws ih =>
    rw [List.forall_mem_cons] at h
    have hstep : tokensFrom cur (c :: (ws ++ rest)) = pendingToken cur ++ tokens (ws ++ rest) := by
      cases cur <;> simp [tokensFrom, h.1, pendingToken, tokens]
    have htail : tokens (ws ++ rest) = tokens rest := by
      by_cases hws : ws = []
      · rw [hws, List.nil_append]
      · exact ih [] hws h.2
    rw [List.cons_append, hstep, htail]

theorem tokens_whitespace (ws rest : List Byte) (h : ∀ c ∈ ws, isWhitespace c = true) :
    tokens (ws ++ rest) = tokens rest := by
  by_cases hws : ws = []
  · rw [hws, List.nil_append]
  · exact tokensFrom_whitespace ws [] rest hws h

/-- A text without whitespace is one token, or none when it is empty. -/
theorem tokens_run (run : List Byte) (h : ∀ c ∈ run, isWhitespace c = false) :
    tokens run = if run = [] then [] else [run] := by
  have hrun := tokensFrom_run run [] [] h
  rw [List.append_nil, List.append_nil, tokensFrom_nil] at hrun
  simpa [tokens, pendingToken] using hrun

/-- A run of other bytes with whitespace behind it is the first token. -/
theorem tokens_run_whitespace (run ws rest : List Byte) (hrun : run ≠ []) (hws : ws ≠ [])
    (hr : ∀ c ∈ run, isWhitespace c = false) (hw : ∀ c ∈ ws, isWhitespace c = true) :
    tokens (run ++ (ws ++ rest)) = run :: tokens rest := by
  rw [tokens, tokensFrom_run run [] _ hr, List.append_nil, tokensFrom_whitespace ws _ rest hws hw,
    pendingToken_reverse hrun, List.singleton_append]

/-- Settles O30: the leading whitespace gives no token, each run with the whitespace behind it gives
one, by induction on the runs, and the last run ends the text. -/
theorem tokensAreTheRunsBetweenWhitespace : Obligations.TokensAreTheRunsBetweenWhitespace := by
  refine ⟨isWhitespace_iff, fun lead runs last hlead hruns hlast => ?_⟩
  rw [List.append_assoc, tokens_whitespace lead _ hlead]
  induction runs with
  | nil => exact tokens_run last hlast
  | cons r runs ih =>
    rw [List.forall_mem_cons] at hruns
    obtain ⟨⟨hrun, hws, hr, hw⟩, hrest⟩ := hruns
    rw [List.flatMap_cons, List.append_assoc, List.append_assoc,
      tokens_run_whitespace r.1 r.2 _ hrun hws hr hw, ih hrest]
    rfl

end Sys2Proof.Machine
end

section
/-! Hexadecimal tokens and the digits of a value (R99, R100). -/
namespace Sys2Proof.Machine

/-- The digit bytes of R99. -/
abbrev IsDigitByte (c : Byte) : Prop :=
  (0x30 ≤ c.toNat ∧ c.toNat ≤ 0x39) ∨ (0x41 ≤ c.toNat ∧ c.toNat ≤ 0x46) ∨
    (0x61 ≤ c.toNat ∧ c.toNat ≤ 0x66)

/-- The value of a digit byte (R99). -/
def digitValue (c : Byte) : Nat :=
  if c.toNat ≤ 0x39 then c.toNat - 0x30
  else if c.toNat ≤ 0x46 then c.toNat - 0x41 + 10 else c.toNat - 0x61 + 10

theorem hexDigit?_eq (c : Byte) :
    hexDigit? c = if IsDigitByte c then some (digitValue c) else none := by
  simp only [hexDigit?, digitValue, IsDigitByte, Bool.and_eq_true, decide_eq_true_eq, BitVec.le_def,
    BitVec.toNat_ofNat, BitVec.ofNat_eq_ofNat]
  split_ifs <;> grind

theorem isHex_iff (t : List Byte) : isHex t = true ↔ t ≠ [] ∧ ∀ c ∈ t, IsDigitByte c := by
  have hdigit (c : Byte) : (hexDigit? c).isSome = true ↔ IsDigitByte c := by
    rw [hexDigit?_eq]
    split <;> simp [*]
  simp only [isHex, Bool.and_eq_true, List.all_eq_true, hdigit]
  simp

theorem hexValue_append_singleton (t : List Byte) (c : Byte) (h : IsDigitByte c) :
    hexValue (t ++ [c]) = 16 * hexValue t + digitValue c := by
  simp [hexValue, hexDigit?_eq, h]

/-- A way to write the sixteen digits: `up` takes each lowercase digit to a byte of the same value. -/
abbrev KeepsDigits (up : Byte → Byte) : Prop := ∀ d < 16, hexDigit? (up (hexChar d)) = some d

theorem keepsDigits_id : KeepsDigits id := by decide

theorem keepsDigits_upper : KeepsDigits fun c => if 0x61 ≤ c then c - 0x20 else c := by decide

theorem isDigitByte_hexDigits {up : Byte → Byte} (hup : KeepsDigits up) (n v : Nat) :
    ∀ c ∈ (hexDigits n v).map up, IsDigitByte c := by
  induction n with
  | zero => simp [hexDigits]
  | succ n ih =>
    have hd := hup (v / 16 ^ n % 16) (Nat.mod_lt _ (by decide))
    rw [hexDigit?_eq] at hd
    rw [hexDigits, List.map_cons, List.forall_mem_cons]
    exact ⟨by by_contra h; simp [h] at hd, ih⟩

/-- Reading `n` digits of `v` behind a number `a`. -/
theorem foldl_hexDigits {up : Byte → Byte} (hup : KeepsDigits up) (n v a : Nat) :
    ((hexDigits n v).map up).foldl (fun v c => 16 * v + (hexDigit? c).getD 0) a =
      16 ^ n * a + v % 16 ^ n := by
  induction n generalizing a with
  | zero => simp [hexDigits, Nat.mod_one]
  | succ n ih =>
    have hd := hup (v / 16 ^ n % 16) (Nat.mod_lt _ (by decide))
    rw [hexDigits, List.map_cons, List.foldl_cons, hd, ih, Option.getD_some, Nat.mod_pow_succ]
    ring

/-- The digits of a value behind zeros are a hexadecimal token. -/
theorem isHex_zeros_hexDigits {up : Byte → Byte} (hup : KeepsDigits up) {n : Nat} (z v : Nat)
    (hn : 0 < n) : isHex (List.replicate z 0x30 ++ (hexDigits n v).map up) = true := by
  have hne : hexDigits n v ≠ [] := List.ne_nil_of_length_pos (by rwa [hexDigits_length])
  rw [isHex_iff, List.forall_mem_append]
  refine ⟨by simp [hne], fun c hc => ?_, isDigitByte_hexDigits hup n v⟩
  rw [List.eq_of_mem_replicate hc]
  decide

/-- They read back as the value. -/
theorem hexValue_zeros_hexDigits {up : Byte → Byte} (hup : KeepsDigits up) {n v : Nat} (z : Nat)
    (hv : v < 16 ^ n) : hexValue (List.replicate z 0x30 ++ (hexDigits n v).map up) = v := by
  have hzeros : hexValue (List.replicate z 0x30) = 0 := by
    induction z with
    | zero => rfl
    | succ z ih => exact ih
  rw [hexValue, List.foldl_append, ← hexValue, hzeros, foldl_hexDigits hup, Nat.mul_zero,
    Nat.zero_add, Nat.mod_eq_of_lt hv]

/-- Settles O31: both cases of the digits are one argument, by `KeepsDigits`. -/
theorem hexTokensReadBack : Obligations.HexTokensReadBack := by
  refine ⟨isHex_iff, rfl, fun t c h => ?_, fun n z v upper hn hv hupper => ?_⟩
  · obtain ⟨-, hall⟩ := (isHex_iff _).1 h
    exact hexValue_append_singleton t c (hall c (by simp))
  · subst hupper
    have hhex := isHex_zeros_hexDigits keepsDigits_id z v hn
    have hval := hexValue_zeros_hexDigits keepsDigits_id z hv
    rw [List.map_id] at hhex hval
    exact ⟨hhex, hval, isHex_zeros_hexDigits keepsDigits_upper z v hn,
      hexValue_zeros_hexDigits keepsDigits_upper z hv, hexDigits_length n v⟩

end Sys2Proof.Machine
end

section
/-! What the encode path stores, field by field (R141). -/
namespace Sys2Proof.Machine

/-! Reading the fields of an encoded message. -/

/-- A field reads below 2 to its width. -/
theorem getField_lt (m : Memory) (l : FieldLayout) (hl : l.length ≤ 12) :
    (getField m l).toNat < 2 ^ l.length := by
  refine Nat.lt_pow_two_of_testBit _ fun j hj => ?_
  have hbit := getLsbD_getField m l hl j
  rwa [decide_eq_false (Nat.not_lt.2 hj), Bool.false_and] at hbit

/-- A field past the end of the buffer reads 0. -/
theorem EndsBy.getField_eq_zero {m : Memory} {n : Nat} (h : EndsBy n m) (l : FieldLayout)
    (hl : l.length ≤ 12) (hn : n ≤ l.offset) : getField m l = 0 := by
  apply BitVec.eq_of_getLsbD_eq
  intro j _
  rw [getLsbD_getField m l hl, BitVec.ofNat_eq_ofNat, BitVec.getLsbD_zero]
  by_cases hj : j < l.length
  · rw [h.2 _ (by omega), Bool.and_false]
  · rw [decide_eq_false hj, Bool.false_and]

/-- A writer that leaves a field as it was leaves it so when the value may be absent. -/
theorem getField_setIfSupplied_apart (m : Memory) (v : Option Word32) (write : Memory → Word32 → Memory)
    (l : FieldLayout) (hw : ∀ x, getField (write m x) l = getField m l) :
    getField (setIfSupplied m v write) l = getField m l := by
  cases v with
  | none => rfl
  | some x => exact hw x

/-- A supplied field reads back its value, an absent one reads 0 (R141). -/
theorem getField_setIfSupplied_same (m : Memory) (v : Option Word32) (write : Memory → Word32 → Memory)
    (l : FieldLayout) (hzero : getField m l = 0) (hw : ∀ x ∈ v, getField (write m x) l = x) :
    getField (setIfSupplied m v write) l = v.getD 0 := by
  cases v with
  | none => exact hzero
  | some x => exact hw x rfl

/-- A data unit leaves every field before it as it was. -/
theorem getField_setDataUnit_before (m : Memory) (hm : m.wf) (i : Nat) (x : Word32) (l : FieldLayout)
    (hl : l.length ≤ 12) (hbefore : l.offset + l.length ≤ (DATA i).offset) :
    getField (setWithParityAck (DATA i) (DATA_P i) (DATA_A i) m x) l = getField m l := by
  simp only [DATA] at hbefore
  refine getField_setWithParityAck_apart m hm _ _ _ l ?_ ?_ ?_ hl ?_ ?_ ?_ x <;>
    simp [Apart, DATA, DATA_P, DATA_A] <;> omega

/-- It holds the byte written to it. -/
theorem getField_setDataUnit_same (m : Memory) (hm : m.wf) (i : Nat) (x : Byte) :
    getField (setWithParityAck (DATA i) (DATA_P i) (DATA_A i) m (x.setWidth 32)) (DATA i) =
      x.setWidth 32 := by
  have hx : (x.setWidth 32).toNat < 2 ^ 8 := by
    rw [BitVec.toNat_setWidth]
    omega
  refine getField_setWithParityAck_same m hm _ _ _ ?_ ?_ ?_ ?_ ?_ _ hx <;>
    simp [Apart, DATA, DATA_P, DATA_A]

/-- The data units leave every field before them as it was. -/
theorem getField_setDataUnits_before (d : List Byte) (m : Memory) (hm : m.wf) (i : Nat) (l : FieldLayout)
    (hl : l.length ≤ 12) (hbefore : l.offset + l.length ≤ (DATA i).offset) :
    getField (setDataUnits m i d) l = getField m l := by
  induction d generalizing m i with
  | nil => rfl
  | cons x d ih =>
    have hnext : l.offset + l.length ≤ (DATA (i + 1)).offset := by
      simp only [DATA, dataStride] at hbefore ⊢
      omega
    rw [setDataUnits, ih _ (setWithParityAck_wf _ _ _ m hm _) (i + 1) hnext,
      getField_setDataUnit_before m hm i _ l hl hbefore]

/-- Data unit `i + j` holds byte `j` of the data written from unit `i` on. -/
theorem dataByte_setDataUnits (d : List Byte) (m : Memory) (hm : m.wf) (i j : Nat) (hj : j < d.length) :
    dataByte (setDataUnits m i d) (i + j) = d[j] := by
  induction d generalizing m i j with
  | nil => cases hj
  | cons x d ih =>
    have hwf := setWithParityAck_wf (DATA i) (DATA_P i) (DATA_A i) m hm (x.setWidth 32)
    cases j with
    | zero =>
      have hend : (DATA i).offset + (DATA i).length ≤ (DATA (i + 1)).offset := by
        simp only [DATA, dataStride]
        omega
      rw [dataByte, Nat.add_zero, setDataUnits,
        getField_setDataUnits_before d _ hwf (i + 1) (DATA i) (by simp [DATA]) hend,
        getField_setDataUnit_same m hm]
      simp
    | succ j =>
      rw [show i + (j + 1) = i + 1 + j by omega]
      exact ih _ hwf (i + 1) j (Nat.lt_of_succ_lt_succ hj)

/-- The data leaves every field before LEN as it was. -/
theorem getField_setData_before (m : Memory) (hm : m.wf) (d : Option (List Byte)) (l : FieldLayout)
    (hl : l.length ≤ 12) (hbefore : l.offset + l.length ≤ LEN.offset) :
    getField (setData m d) l = getField m l := by
  simp only [LEN] at hbefore
  cases d with
  | none => rfl
  | some d =>
    have hbody : l.offset + l.length ≤ (DATA 0).offset := hbefore.trans (by decide)
    rw [setData, getField_setDataUnits_before d _ (setWithParityAck_wf _ _ _ m hm _) 0 l hl hbody]
    refine getField_setWithParityAck_apart m hm _ _ _ l ?_ ?_ ?_ hl ?_ ?_ ?_ _ <;>
      simp [Apart, LEN, LEN_P, LEN_A] <;> omega

/-- The data bytes read back as supplied. -/
theorem dataByte_setData (m : Memory) (hm : m.wf) (d : List Byte) (j : Nat) (hj : j < d.length) :
    dataByte (setData m (some d)) j = d[j] := by
  have hunit := dataByte_setDataUnits d _
    (setWithParityAck_wf LEN LEN_P LEN_A m hm (BitVec.ofNat 32 d.length)) 0 j hj
  rwa [Nat.zero_add] at hunit

/-- The data bytes of an encoded message are those supplied (R141, R143). -/
theorem dataBytes_encodeFields (f : Supplied) (hf : ∀ d ∈ f.data, d.length ≤ maxData) :
    dataBytes (encodeFields f) = f.data.getD [] := by
  have hlen := dataLength_encodeFields f hf
  refine List.ext_getElem (by rw [dataBytes_length, hlen]) fun j _ hj => ?_
  simp only [dataBytes, List.getElem_map, List.getElem_range, encodeFields_eq]
  obtain ⟨bcast, master, slave, control, data⟩ := f
  cases data with
  | none => cases hj
  | some d => exact dataByte_setData _ (endsBy_encodeHeader _).1 d j hj

/-! The header fields of an encoded message, one writer after the other (R141). -/

/-- The zero buffer after the first writer of `encodeHeader`. -/
def headerBcast (f : Supplied) : Memory := setIfSupplied [] f.bcast fun m v => setField m BCAST v

/-- The buffer after the second. -/
def headerMaster (f : Supplied) : Memory :=
  setIfSupplied (headerBcast f) f.master (setWithParity MASTER MASTER_P)

/-- The buffer after the third. -/
def headerSlave (f : Supplied) : Memory :=
  setIfSupplied (headerMaster f) f.slave (setWithParityAck SLAVE SLAVE_P SLAVE_A)

theorem encodeHeader_eq (f : Supplied) :
    encodeHeader f = setIfSupplied (headerSlave f) f.control (setWithParityAck CTRL CTRL_P CTRL_A) := rfl

theorem endsBy_headerBcast (f : Supplied) : EndsBy MASTER.offset (headerBcast f) :=
  endsBy_setIfSupplied (endsBy_nil _) _ _ fun x => endsBy_setField (endsBy_nil _) BCAST (by decide) x

theorem endsBy_headerMaster (f : Supplied) : EndsBy SLAVE.offset (headerMaster f) := by
  have hbcast := (endsBy_headerBcast f).mono (by decide : _ ≤ SLAVE.offset)
  exact endsBy_setIfSupplied hbcast _ _ fun x =>
    endsBy_setWithParity hbcast MASTER MASTER_P (by decide) (by decide) x

theorem endsBy_headerSlave (f : Supplied) : EndsBy CTRL.offset (headerSlave f) := by
  have hmaster := (endsBy_headerMaster f).mono (by decide : _ ≤ CTRL.offset)
  exact endsBy_setIfSupplied hmaster _ _ fun x =>
    endsBy_setWithParityAck hmaster SLAVE SLAVE_P SLAVE_A (by decide) (by decide) (by decide) x

section
variable (f : Supplied) (l : FieldLayout) (hl : l.length ≤ 12)
include hl

/-- The master writer keeps the fields before it. -/
theorem getField_headerMaster_before (h : l.offset + l.length ≤ MASTER.offset) :
    getField (headerMaster f) l = getField (headerBcast f) l := by
  simp only [MASTER] at h
  have hwf := (endsBy_headerBcast f).1
  refine getField_setIfSupplied_apart _ _ _ l fun x => ?_
  rw [setWithParity,
    getField_setField_apart _ (setField_wf _ hwf _ x) MASTER_P l (by decide) hl
      (.inr (by simp only [MASTER_P]; omega)),
    getField_setField_apart _ hwf MASTER l (by decide) hl (.inr h)]

/-- The slave writer keeps the fields before it. -/
theorem getField_headerSlave_before (h : l.offset + l.length ≤ SLAVE.offset) :
    getField (headerSlave f) l = getField (headerMaster f) l := by
  simp only [SLAVE] at h
  refine getField_setIfSupplied_apart _ _ _ l fun x =>
    getField_setWithParityAck_apart _ (endsBy_headerMaster f).1 SLAVE SLAVE_P SLAVE_A l (by decide)
      (by decide) (by decide) hl (.inr h) (.inr ?_) (.inr ?_) x <;>
    simp only [SLAVE_P, SLAVE_A] <;> omega

/-- The control writer and the data keep the fields before them. -/
theorem getField_encodeFields_before (h : l.offset + l.length ≤ CTRL.offset) :
    getField (encodeFields f) l = getField (headerSlave f) l := by
  simp only [CTRL] at h
  rw [encodeFields_eq, getField_setData_before _ (endsBy_encodeHeader f).1 _ l hl (by simp only [LEN]; omega),
    encodeHeader_eq]
  refine getField_setIfSupplied_apart _ _ _ l fun x =>
    getField_setWithParityAck_apart _ (endsBy_headerSlave f).1 CTRL CTRL_P CTRL_A l (by decide)
      (by decide) (by decide) hl (.inr h) (.inr ?_) (.inr ?_) x <;>
    simp only [CTRL_P, CTRL_A] <;> omega

end

/-- The broadcast flag of an encoded message is the one supplied, or 0 (R141). -/
theorem getField_encodeFields_bcast (f : Supplied) (hf : ∀ x ∈ f.bcast, x.toNat < 2 ^ 1) :
    getField (encodeFields f) BCAST = f.bcast.getD 0 := by
  rw [getField_encodeFields_before f BCAST (by decide) (by decide),
    getField_headerSlave_before f BCAST (by decide) (by decide),
    getField_headerMaster_before f BCAST (by decide) (by decide)]
  refine getField_setIfSupplied_same _ _ _ BCAST (by decide) fun x hx => ?_
  exact getField_setField_same [] wf_nil BCAST (by decide) x (hf x hx)

/-- The master address of an encoded message is the one supplied, or 0 (R141). -/
theorem getField_encodeFields_master (f : Supplied) (hf : ∀ x ∈ f.master, x.toNat < 2 ^ 12) :
    getField (encodeFields f) MASTER = f.master.getD 0 := by
  have hbcast := endsBy_headerBcast f
  rw [getField_encodeFields_before f MASTER (by decide) (by decide),
    getField_headerSlave_before f MASTER (by decide) (by decide)]
  refine getField_setIfSupplied_same _ _ _ MASTER
    (hbcast.getField_eq_zero MASTER (by decide) le_rfl) fun x hx => ?_
  rw [setWithParity, getField_setField_apart _ (setField_wf _ hbcast.1 _ x) MASTER_P MASTER (by decide)
    (by decide) (by decide), getField_setField_same _ hbcast.1 MASTER (by decide) x (hf x hx)]

/-- The slave address of an encoded message is the one supplied, or 0 (R141). -/
theorem getField_encodeFields_slave (f : Supplied) (hf : ∀ x ∈ f.slave, x.toNat < 2 ^ 12) :
    getField (encodeFields f) SLAVE = f.slave.getD 0 := by
  have hmaster := endsBy_headerMaster f
  rw [getField_encodeFields_before f SLAVE (by decide) (by decide)]
  refine getField_setIfSupplied_same _ _ _ SLAVE
    (hmaster.getField_eq_zero SLAVE (by decide) le_rfl) fun x hx => ?_
  exact getField_setWithParityAck_same _ hmaster.1 SLAVE SLAVE_P SLAVE_A (by decide) (by decide)
    (by decide) (by decide) (by decide) x (hf x hx)

/-- The control field of an encoded message is the one supplied, or 0 (R141). -/
theorem getField_encodeFields_control (f : Supplied) (hf : ∀ x ∈ f.control, x.toNat < 2 ^ 4) :
    getField (encodeFields f) CTRL = f.control.getD 0 := by
  have hslave := endsBy_headerSlave f
  rw [encodeFields_eq, getField_setData_before _ (endsBy_encodeHeader f).1 _ CTRL (by decide) (by decide),
    encodeHeader_eq]
  refine getField_setIfSupplied_same _ _ _ CTRL
    (hslave.getField_eq_zero CTRL (by decide) le_rfl) fun x hx => ?_
  exact getField_setWithParityAck_same _ hslave.1 CTRL CTRL_P CTRL_A (by decide) (by decide)
    (by decide) (by decide) (by decide) x (hf x hx)

end Sys2Proof.Machine
end

section
/-! BUILD_TOKENS of a display string (R98, R100, R101). -/
namespace Sys2Proof.Machine

/-! The digits of a display string are whole tokens. -/

theorem isDigitByte_of_mem_hexDigits (n v : Nat) : ∀ c ∈ hexDigits n v, IsDigitByte c := by
  simpa using isDigitByte_hexDigits keepsDigits_id n v

theorem isHex_hexDigits {n : Nat} (v : Nat) (hn : 0 < n) : isHex (hexDigits n v) = true := by
  simpa using isHex_zeros_hexDigits keepsDigits_id 0 v hn

theorem hexValue_hexDigits {n v : Nat} (hv : v < 16 ^ n) : hexValue (hexDigits n v) = v := by
  simpa using hexValue_zeros_hexDigits keepsDigits_id 0 hv

/-- A digit byte is no whitespace. -/
theorem IsDigitByte.isWhitespace_eq_false {c : Byte} (h : IsDigitByte c) : isWhitespace c = false := by
  rw [← Bool.not_eq_true, isWhitespace_iff]
  intro hc
  have hnone : ∀ d ∈ [0x20#8, 0x09#8, 0x0A#8, 0x0B#8, 0x0C#8, 0x0D#8], ¬ IsDigitByte d := by decide
  exact hnone c hc h

theorem IsDigitByte.ne_colon {c : Byte} (h : IsDigitByte c) : c ≠ 0x3A := by
  rintro rfl
  revert h
  decide

/-- Digits with whitespace behind them are the first token. -/
theorem tokens_hexDigits_whitespace {n : Nat} (v : Nat) (ws rest : List Byte) (hn : 0 < n) (hws : ws ≠ [])
    (hw : ∀ c ∈ ws, isWhitespace c = true) :
    tokens (hexDigits n v ++ (ws ++ rest)) = hexDigits n v :: tokens rest :=
  tokens_run_whitespace _ _ _ (List.ne_nil_of_length_pos (by rwa [hexDigits_length])) hws
    (fun c hc => (isDigitByte_of_mem_hexDigits n v c hc).isWhitespace_eq_false) hw

/-- The bytes of a display string behind its header: a space and two digits each (R100). -/
def dataText (d : List Byte) : List Byte := d.flatMap fun x => 0x20 :: hexDigits 2 x.toNat

theorem tokensFrom_dataText (d cur : List Byte) :
    tokensFrom cur (dataText d) = pendingToken cur ++ d.map fun x => hexDigits 2 x.toNat := by
  induction d generalizing cur with
  | nil => exact (tokensFrom_nil cur).trans (List.append_nil _).symm
  | cons x d ih =>
    have hne : hexDigits 2 x.toNat ≠ [] := List.cons_ne_nil _ _
    have hdigits : ∀ c ∈ hexDigits 2 x.toNat, isWhitespace c = false := fun c hc =>
      (isDigitByte_of_mem_hexDigits 2 _ c hc).isWhitespace_eq_false
    calc tokensFrom cur (dataText (x :: d))
        = tokensFrom cur ([0x20] ++ (hexDigits 2 x.toNat ++ dataText d)) := rfl
      _ = pendingToken cur ++ tokensFrom (hexDigits 2 x.toNat).reverse (dataText d) := by
        rw [tokensFrom_whitespace _ cur _ (by decide) (by decide), tokens, tokensFrom_run _ _ _ hdigits,
          List.append_nil]
      _ = pendingToken cur ++ (x :: d).map fun x => hexDigits 2 x.toNat := by
        rw [ih, pendingToken_reverse hne]
        rfl

/-- Each data byte is one token. -/
theorem tokens_dataText (d : List Byte) : tokens (dataText d) = d.map fun x => hexDigits 2 x.toNat :=
  tokensFrom_dataText d []

/-! The decimal length, read as hexadecimal (R101). -/

/-- The decimal digits of a length below 100 read as hexadecimal. -/
def lengthAsHex (n : Nat) : Nat := 16 * (n / 10) + n % 10

/-- The token of a length below 100. -/
def lengthToken (n : Nat) : List Byte := hexDigits (if n < 10 then 1 else 2) (lengthAsHex n)

/-- The leading space of `dec2` (R100). -/
def lengthPad (n : Nat) : List Byte := if n < 10 then [0x20] else []

theorem decimal2_eq {n : Nat} (h : n < 100) : decimal2 n = lengthPad n ++ lengthToken n := by
  simp only [decimal2, lengthPad, lengthToken, lengthAsHex]
  by_cases h10 : n < 10
  · have hdigit : (16 * (n / 10) + n % 10) % 16 = n := by omega
    simp [h10, hexDigits, hdigit]
  · have hhigh : (16 * (n / 10) + n % 10) / 16 % 16 = n / 10 := by omega
    have hlow : (16 * (n / 10) + n % 10) % 16 = n % 10 := by omega
    simp [h10, h, hexDigits, hhigh, hlow]

theorem isHex_lengthToken (n : Nat) : isHex (lengthToken n) = true :=
  isHex_hexDigits _ (by split <;> decide)

theorem hexValue_lengthToken {n : Nat} (h : n < 100) : hexValue (lengthToken n) = lengthAsHex n := by
  refine hexValue_hexDigits ?_
  simp only [lengthAsHex]
  split <;> omega

/-! The tokens of a display string. -/

/-- `T` of a display string (R100). -/
def typeByte (m : Memory) : Byte := if getField m BCAST = BROADCAST then 0x42 else 0x2D

theorem stripColons_append (a b : List Byte) : stripColons (a ++ b) = stripColons a ++ stripColons b :=
  List.filter_append a b

theorem stripColons_hexDigits (n v : Nat) : stripColons (hexDigits n v) = hexDigits n v :=
  List.filter_eq_self.2 fun c hc => by simpa using (isDigitByte_of_mem_hexDigits n v c hc).ne_colon

theorem stripColons_dataText (d : List Byte) : stripColons (dataText d) = dataText d := by
  induction d with
  | nil => rfl
  | cons x d ih =>
    calc stripColons (dataText (x :: d))
        = stripColons ([0x20] ++ (hexDigits 2 x.toNat ++ dataText d)) := rfl
      _ = dataText (x :: d) := by
        rw [stripColons_append, stripColons_append, stripColons_hexDigits, ih]
        rfl

/-- A display string without its colon (R97, R100). -/
theorem stripColons_displayString (m : Memory) (h : dataLength m < 100) :
    stripColons (displayString m) =
      [typeByte m] ++ ([0x20] ++ (hexDigits 3 (getField m MASTER).toNat ++ ([0x20] ++
        (hexDigits 3 (getField m SLAVE).toNat ++ ([0x20] ++ (hexDigits 1 (getField m CTRL).toNat ++
          ((0x20 :: lengthPad (dataLength m)) ++ (lengthToken (dataLength m) ++
            ([0x20] ++ dataText (dataBytes m)))))))))) := by
  have htext : displayString m =
      [typeByte m, 0x20] ++ hexDigits 3 (getField m MASTER).toNat ++ [0x20] ++
        hexDigits 3 (getField m SLAVE).toNat ++ [0x20] ++ hexDigits 1 (getField m CTRL).toNat ++ [0x20] ++
        decimal2 (dataLength m) ++ [0x20, 0x3A] ++ dataText (dataBytes m) := rfl
  have htype : stripColons [typeByte m, 0x20] = [typeByte m, 0x20] := by
    rw [typeByte]
    split <;> rfl
  have hpad : stripColons (lengthPad (dataLength m)) = lengthPad (dataLength m) := by
    rw [lengthPad]
    split <;> rfl
  have hspace : stripColons [0x20] = [0x20] := rfl
  have hcolon : stripColons [0x20, 0x3A] = [0x20] := rfl
  simp only [htext, decimal2_eq h, stripColons_append, htype, hspace, hcolon, hpad, stripColons_dataText,
    lengthToken, stripColons_hexDigits]
  simp

theorem tokens_displayString (m : Memory) (h : dataLength m < 100) :
    tokens (stripColons (displayString m)) =
      [typeByte m] :: hexDigits 3 (getField m MASTER).toNat :: hexDigits 3 (getField m SLAVE).toNat ::
        hexDigits 1 (getField m CTRL).toNat :: lengthToken (dataLength m) ::
          (dataBytes m).map fun x => hexDigits 2 x.toNat := by
  have htype : ∀ c ∈ [typeByte m], isWhitespace c = false := by
    rw [typeByte]
    split <;> decide
  have hpad : ∀ c ∈ 0x20 :: lengthPad (dataLength m), isWhitespace c = true := by
    rw [lengthPad]
    split <;> decide
  rw [stripColons_displayString m h,
    tokens_run_whitespace [typeByte m] [0x20] _ (by simp) (by decide) htype (by decide),
    tokens_hexDigits_whitespace _ [0x20] _ (by decide) (by decide) (by decide),
    tokens_hexDigits_whitespace _ [0x20] _ (by decide) (by decide) (by decide),
    tokens_hexDigits_whitespace _ (0x20 :: lengthPad _) _ (by decide) (by simp) hpad, lengthToken,
    tokens_hexDigits_whitespace _ [0x20] _ (by split <;> decide) (by decide) (by decide), tokens_dataText]

/-! What BUILD_TOKENS makes of it. -/

/-- The operands of BUILD_TOKENS when every check of R144 passes. -/
theorem parseTokens_ok {inp type master slave : List Byte} {data : List (List Byte)}
    (htok : tokens (stripColons inp) = type :: master :: slave :: data)
    (hmin : 2 ≤ data.length) (hmax : data.length ≤ maxData)
    (hhex : ∀ t ∈ master :: slave :: data, isHex t = true) (hmaster : hexValue master ≤ 0xFFF)
    (hslave : hexValue slave ≤ 0xFFF) (hdata : ∀ t ∈ data, hexValue t ≤ 0xFF) :
    parseTokens inp = .ok
      { bcast := some (typeToken type)
        master := some (BitVec.ofNat 32 (hexValue master))
        slave := some (BitVec.ofNat 32 (hexValue slave))
        control := some controlTokenDefault
        data := some (data.map fun t => BitVec.ofNat 8 (hexValue t)) } := by
  have hlen : ¬ (type :: master :: slave :: data).length < 5 := by
    simp only [List.length_cons]
    omega
  have hall : (master :: slave :: data).all isHex = true := List.all_eq_true.2 hhex
  have hany : ¬ (data.any fun t => 0xFF < hexValue t) = true := by simpa using hdata
  simp only [parseTokens, htok, List.drop_succ_cons, List.drop_zero, List.getD_cons_succ,
    List.getD_cons_zero]
  rw [if_neg hlen, if_neg (not_not.2 hall), if_neg (Nat.not_lt.2 hmax), if_neg (Nat.not_lt.2 hmaster),
    if_neg (Nat.not_lt.2 hslave), if_neg hany]

/-- What R101 says a display string gives BUILD_TOKENS. -/
def reparsed (m : Memory) : Supplied where
  bcast := some (getField m BCAST)
  master := some (getField m MASTER)
  slave := some (getField m SLAVE)
  control := some controlTokenDefault
  data := some ((getField m CTRL).setWidth 8 :: BitVec.ofNat 8 (lengthAsHex (dataLength m)) :: dataBytes m)

/-- The type byte stands for the broadcast flag it was made from (R95, R98). -/
theorem typeToken_typeByte (m : Memory) : typeToken [typeByte m] = getField m BCAST := by
  have hflag : (getField m BCAST).toNat < 2 := getField_lt m BCAST (by decide)
  by_cases h : getField m BCAST = BROADCAST
  · simp [typeToken, typeByte, h]
  · have hone : getField m BCAST = UNICAST := by
      apply BitVec.eq_of_toNat_eq
      have hne : (getField m BCAST).toNat ≠ 0 := fun h0 => h (BitVec.eq_of_toNat_eq h0)
      have hunicast : UNICAST.toNat = 1 := rfl
      omega
    rw [typeByte, if_neg h, hone]
    rfl

theorem parseTokens_displayString (m : Memory) (h : dataLength m ≤ 62) :
    parseTokens (displayString m) = .ok (reparsed m) := by
  have hmaster : (getField m MASTER).toNat < 16 ^ 3 := getField_lt m MASTER (by decide)
  have hslave : (getField m SLAVE).toNat < 16 ^ 3 := getField_lt m SLAVE (by decide)
  have hctrl : (getField m CTRL).toNat < 16 ^ 1 := getField_lt m CTRL (by decide)
  have hbyte (x : Byte) : hexValue (hexDigits 2 x.toNat) = x.toNat := hexValue_hexDigits x.isLt
  have hlength := hexValue_lengthToken (show dataLength m < 100 by omega)
  have hhex : lengthAsHex (dataLength m) ≤ 0xFF := by rw [lengthAsHex]; omega
  rw [parseTokens_ok (tokens_displayString m (by omega)), reparsed, typeToken_typeByte]
  · simp [hexValue_hexDigits hmaster, hexValue_hexDigits hslave, hexValue_hexDigits hctrl, hlength, hbyte,
      Function.comp_def]
  · simp
  · simp only [List.length_cons, List.length_map, dataBytes_length, maxData]
    omega
  · simp [isHex_hexDigits, isHex_lengthToken]
  · rw [hexValue_hexDigits hmaster]; omega
  · rw [hexValue_hexDigits hslave]; omega
  · simp only [List.forall_mem_cons, List.forall_mem_map, hbyte, hlength, hexValue_hexDigits hctrl]
    exact ⟨by omega, hhex, fun x _ => by omega⟩

@[simp] theorem completedWith_msg (r0 r1 : Word32) (o : List Byte) (s : State) :
    (completedWith r0 r1 o s).msg = s.msg := rfl

/-- DISPLAY of a held message delivers its display string (R150). -/
theorem exec_display {s : State} (h : s.msgValid = true) :
    exec .display s = .next
      (completedWith (countResult (displayString s.msg).length) 0 (displayString s.msg) s) := by
  rw [exec, execDisplay, withMessage_valid s _ h]
  exact finish_ok _ _ _ _

/-- Settles O40: DISPLAY delivers the display string, BUILD_TOKENS reads it as `reparsed`, and the
encoded message holds those fields. -/
theorem displayReparsesWithTwoMoreDataBytes : Obligations.DisplayReparsesWithTwoMoreDataBytes := by
  intro s hv hlen
  have hparse := parseTokens_displayString s.msg hlen
  have hdata : ∀ d ∈ (reparsed s.msg).data, d.length ≤ maxData := parseTokens_ok_data _ _ hparse
  have hbcast : ∀ x ∈ (reparsed s.msg).bcast, x.toNat < 2 ^ 1 := by
    rintro _ ⟨⟩
    exact getField_lt s.msg BCAST (by decide)
  have hmaster : ∀ x ∈ (reparsed s.msg).master, x.toNat < 2 ^ 12 := by
    rintro _ ⟨⟩
    exact getField_lt s.msg MASTER (by decide)
  have hslave : ∀ x ∈ (reparsed s.msg).slave, x.toNat < 2 ^ 12 := by
    rintro _ ⟨⟩
    exact getField_lt s.msg SLAVE (by decide)
  have hcontrol : ∀ x ∈ (reparsed s.msg).control, x.toNat < 2 ^ 4 := by
    simp [reparsed, controlTokenDefault]
  refine ⟨_, _, exec_display hv, (Encodes.buildTokens hparse).exec_eq _, rfl, ?_⟩
  simp only [completedWith_msg, commitMessage_msg, getField_encodeFields_bcast _ hbcast,
    getField_encodeFields_master _ hmaster, getField_encodeFields_slave _ hslave,
    getField_encodeFields_control _ hcontrol, dataLength_encodeFields _ hdata,
    dataBytes_encodeFields _ hdata]
  simp [reparsed, controlTokenDefault, dataBytes_length, lengthAsHex]

end Sys2Proof.Machine
end

section
/-! A field as the number its message bits spell, and field writes as data (R121 to R124, R127). -/
namespace Sys2Proof.Machine

open Sys2Proof.Claims

/-- One more bit behind a run of message bits doubles its value and adds the bit (R122). -/
theorem bitsValue_succ (m : Memory) (o n : Nat) :
    bitsValue m o (n + 1) = Nat.bit (msgBit m (o + n)) (bitsValue m o n) := by
  rw [bitsValue, List.range_succ, List.foldl_append, Nat.bit_val]
  rfl

/-- Bit `j` of a run's value is its message bit counted from the run's end (R122). -/
theorem testBit_bitsValue (m : Memory) (o n j : Nat) :
    (bitsValue m o n).testBit j = (decide (j < n) && msgBit m (o + n - 1 - j)) := by
  induction n generalizing j with
  | zero => simp [bitsValue]
  | succ n ih =>
    rw [bitsValue_succ]
    cases j with
    | zero => simp
    | succ j =>
      have hpos : o + (n + 1) - 1 - (j + 1) = o + n - 1 - j := by omega
      rw [Nat.testBit_bit_succ, ih, hpos, decide_eq_decide.2 Nat.succ_lt_succ_iff]

/-- The unchecked field access gives the message bits of the field (R122, entry 6). -/
theorem toNat_getField (m : Memory) (l : FieldLayout) (hl : l.length ≤ 12) :
    (getField m l).toNat = bitsValue m l.offset l.length := by
  refine Nat.eq_of_testBit_eq fun j => ?_
  rw [testBit_bitsValue, BitVec.testBit_toNat, getLsbD_getField m l hl]

theorem getField_eq_bitsValue (m : Memory) (l : FieldLayout) (hl : l.length ≤ 12) :
    getField m l = BitVec.ofNat 32 (bitsValue m l.offset l.length) := by
  rw [← toNat_getField m l hl, BitVec.ofNat_toNat, BitVec.setWidth_eq]

/-- `readField` by message bits: the bounds error, or the bits of the field (R121, R122). -/
theorem readField_eq_bitsValue (cap : Nat) (m : Memory) (l : FieldLayout) (hl : l.length ≤ 12) :
    readField cap m l =
      if cap < l.offset / 8 + 4 then .error .bufferBoundsError
      else .ok (BitVec.ofNat 32 (bitsValue m l.offset l.length)) := by
  by_cases hcap : cap < l.offset / 8 + 4
  · rw [if_pos hcap, readField_outside cap m l hcap]
  · rw [if_neg hcap, readField_inside cap m l (Nat.not_lt.1 hcap), getField_eq_bitsValue m l hl]

/-- Settles O22: both field accesses give the field's message bits, and LEN is bits 34 to 41. -/
theorem readFieldGivesMessageBits : Obligations.ReadFieldGivesMessageBits :=
  ⟨fun cap m l _ hl => ⟨readField_eq_bitsValue cap m l hl, getField_eq_bitsValue m l hl⟩,
    fun m => toNat_getField m LEN (by decide)⟩

/-- A written field reads back as the low bits of the value (R124). -/
theorem getField_setField_mod (m : Memory) (hm : m.wf) (l : FieldLayout) (hl : l.length ≤ 12)
    (v : Word32) : getField (setField m l v) l = BitVec.ofNat 32 (v.toNat % 2 ^ l.length) := by
  apply BitVec.eq_of_getLsbD_eq
  intro j hj32
  rw [getLsbD_getField _ l hl, BitVec.getLsbD_ofNat, Nat.testBit_mod_two_pow, BitVec.testBit_toNat,
    decide_eq_true hj32, Bool.true_and]
  by_cases hj : j < l.length
  · rw [msgBit_setField m hm l hl, if_pos (by omega)]
    congr 2
    omega
  · simp [hj]

/-- Settles O23: inside the buffer `writeField` is `setField`, which sets the field's bits and no other. -/
theorem writeFieldChangesOnlyTheField : Obligations.WriteFieldChangesOnlyTheField := by
  intro cap m l v hm _ hl hcap
  refine ⟨setField m l v, writeField_inside cap m l v hcap, setField_wf m hm l v, ?_, fun i hi => ?_⟩
  · rw [readField_inside cap _ l hcap, getField_setField_mod m hm l hl]
  · rw [msgBit_setField m hm l hl, if_neg (by omega)]

/-- Every bit of a byte is a message bit (R14). -/
theorem getLsbD_read (m : Memory) (a j : Nat) (hj : j < 8) :
    (m.read a).getLsbD j = msgBit m (8 * a + (7 - j)) := by
  have hbyte : (8 * a + (7 - j)) / 8 = a := by omega
  have hbit : 7 - (8 * a + (7 - j)) % 8 = j := by omega
  rw [msgBit, hbyte, hbit]

/-- Two canonical buffers with the same message bits are the same data. -/
theorem eq_of_msgBit_eq (m n : Memory) (hm : m.wf) (hn : n.wf) (h : ∀ i, msgBit m i = msgBit n i) :
    m = n := by
  refine wf_ext m n hm hn fun a => BitVec.eq_of_getLsbD_eq fun j hj => ?_
  rw [getLsbD_read m a j hj, getLsbD_read n a j hj, h]

/-- Settles O24: both orders leave the same message bits, and a canonical buffer is its message bits. -/
theorem writesToDifferentFieldsCommute : Obligations.WritesToDifferentFieldsCommute := by
  intro m k l v w hm _ hk _ hl hapart
  have hmk := setField_wf m hm k v
  have hml := setField_wf m hm l w
  refine eq_of_msgBit_eq _ _ (setField_wf _ hmk l w) (setField_wf _ hml k v) fun i => ?_
  rw [msgBit_setField _ hmk l hl, msgBit_setField m hm k hk, msgBit_setField _ hml k hk,
    msgBit_setField m hm l hl]
  by_cases hik : k.offset ≤ i ∧ i < k.offset + k.length
  · rw [if_pos hik, if_neg (by omega), if_pos hik]
  · rw [if_neg hik, if_neg hik]

/-- A width is legal between 1 and 12 (R120), as R127 checks it. -/
theorem isLegalLayout_iff (l : FieldLayout) :
    isLegalLayout l = true ↔ ¬ (l.length < 1 ∨ 12 < l.length) := by
  have hmax : fieldMaxLen = 12 := rfl
  rw [isLegalLayout, Bool.and_eq_true, decide_eq_true_eq, decide_eq_true_eq]
  omega

/-- FIELD_READ with a message: its two checks in order, then the bits of the field (R127). -/
theorem execFieldRead_valid (o l : Word32) {s : State} (h : s.msgValid = true) :
    execFieldRead o l s = .next (
      if l.toNat < 1 ∨ 12 < l.toNat then abortedWith 4 s
      else if s.params.msgCap < o.toNat / 8 + 4 then abortedWith 3 s
      else completedWith (BitVec.ofNat 32 (bitsValue s.msg o.toNat l.toNat)) 0 [] s) := by
  have hlegal := isLegalLayout_iff ⟨o.toNat, l.toNat⟩
  rw [execFieldRead, withMessage_valid s _ h]
  by_cases hwidth : l.toNat < 1 ∨ 12 < l.toNat
  · rw [if_pos hwidth, if_neg (fun hl => hlegal.1 hl hwidth), raise_eq]
    rfl
  · have hmax : l.toNat ≤ 12 := by omega
    rw [if_neg hwidth, if_pos (hlegal.2 hwidth), readField_eq_bitsValue _ _ _ hmax]
    by_cases hcap : s.params.msgCap < o.toNat / 8 + 4
    · simp only [if_pos hcap, raise_eq, errorIndex]
    · simp only [if_neg hcap, finish_ok]

/-- Settles O25: NoMessage without a message, else what FIELD_READ answers with one. -/
theorem fieldReadByRule : Obligations.FieldReadByRule := by
  intro o l s
  rw [exec]
  cases h : s.msgValid with
  | false => rw [if_pos rfl, execFieldRead, withMessage_invalid s _ h]
  | true => exact execFieldRead_valid o l h

end Sys2Proof.Machine
end

section
/-! Parity as a population count (R125, R128). -/
namespace Sys2Proof.Machine

open Sys2Proof.Claims

/-- The exclusive-or of a list of bits tells whether the number of set ones is odd. -/
theorem foldl_xor_eq_odd_count (f : Nat → Bool) (xs : List Nat) (p : Bool) :
    xs.foldl (fun q j => q ^^ f j) p = (p ^^ decide ((xs.filter f).length % 2 = 1)) := by
  induction xs generalizing p with
  | nil => simp
  | cons x xs ih =>
    rw [List.foldl_cons, ih]
    cases hx : f x with
    | false => simp [hx]
    | true =>
      have hodd : decide (((xs.filter f).length + 1) % 2 = 1) =
          !decide ((xs.filter f).length % 2 = 1) := by
        rw [← decide_not, decide_eq_decide]
        omega
      simp [hx, hodd]

theorem parity_eq_odd_popcount (v : Word32) : parity v = decide (popcount v % 2 = 1) := by
  rw [parity, foldl_xor_eq_odd_count, Bool.false_xor]
  rfl

/-- The parity bit is the population count modulo 2 (R125). -/
theorem parityBit_eq_popcount_mod_two (v : Word32) : parityBit v = BitVec.ofNat 32 (popcount v % 2) := by
  rw [parityBit, parity_eq_odd_popcount]
  rcases Nat.mod_two_eq_zero_or_one (popcount v) with h | h <;> rw [h] <;> rfl

/-- Settles O26: PARITY completes in every state with the parity bit as its result. -/
theorem parityByRule : Obligations.ParityByRule := by
  intro v s
  rw [exec, execParity, finish_ok, parityBit_eq_popcount_mod_two]

end Sys2Proof.Machine
end

section
/-! The encode-path writer unit by unit: every parity, acknowledgement and data unit of an encoded message
(R141, R143). -/
namespace Sys2Proof.Machine

open Sys2Proof.Claims

theorem toNat_parityBit (v : Word32) : (parityBit v).toNat = popcount v % 2 := by
  rw [parityBit_eq_popcount_mod_two, BitVec.toNat_ofNat]
  omega

/-! What one unit leaves in its parity and acknowledgement fields. -/

theorem getField_setWithParity_parity (m : Memory) (hm : m.wf) (f p : FieldLayout) (hp : p.length = 1)
    (v : Word32) : getField (setWithParity f p m v) p = parityBit v := by
  refine getField_setField_same _ (setField_wf m hm f v) p (by omega) _ ?_
  rw [hp, toNat_parityBit]
  omega

theorem getField_setWithParityAck_parity (m : Memory) (hm : m.wf) (f p k : FieldLayout)
    (hp : p.length = 1) (hk : k.length = 1) (hkp : Apart k p) (v : Word32) :
    getField (setWithParityAck f p k m v) p = parityBit v := by
  rw [setWithParityAck, getField_setField_apart _ (setWithParity_wf f p m hm v) k p (by omega) (by omega)
    hkp, getField_setWithParity_parity m hm f p hp]

theorem getField_setWithParityAck_ack (m : Memory) (hm : m.wf) (f p k : FieldLayout) (hk : k.length = 1)
    (v : Word32) : getField (setWithParityAck f p k m v) k = NAK :=
  getField_setField_same _ (setWithParity_wf f p m hm v) k (by omega) NAK (by rw [hk]; decide)

section
variable {m : Memory} {n : Nat} (h : EndsBy n m) (v : Option Word32)
include h

/-- A parity written behind the end of the message is that of the supplied value; an absent value leaves
it 0, which is the parity of 0. -/
theorem getField_setIfSupplied_parity (write : Memory → Word32 → Memory) (p : FieldLayout)
    (hp : p.length = 1) (hn : n ≤ p.offset) (hw : ∀ x, getField (write m x) p = parityBit x) :
    getField (setIfSupplied m v write) p = parityBit (v.getD 0) := by
  cases v with
  | none => exact h.getField_eq_zero p (by omega) hn
  | some x => exact hw x

/-- An acknowledgement written behind the end of the message is NAK when the value is supplied. -/
theorem getField_setIfSupplied_ack (f p k : FieldLayout) (hk : k.length = 1) (hn : n ≤ k.offset) :
    getField (setIfSupplied m v (setWithParityAck f p k)) k = if v.isSome then NAK else 0 := by
  cases v with
  | none => exact h.getField_eq_zero k (by omega) hn
  | some x => exact getField_setWithParityAck_ack m h.1 f p k hk x

end

/-! The header of an encoded message. -/

/-- The data keeps the fields before LEN. -/
theorem getField_encodeFields_header (f : Supplied) (l : FieldLayout) (hl : l.length ≤ 12)
    (h : l.offset + l.length ≤ LEN.offset) : getField (encodeFields f) l = getField (encodeHeader f) l := by
  rw [encodeFields_eq, getField_setData_before _ (endsBy_encodeHeader f).1 _ l hl h]

theorem getField_encodeFields_masterParity (f : Supplied) :
    getField (encodeFields f) MASTER_P = parityBit (f.master.getD 0) := by
  have hbcast := endsBy_headerBcast f
  rw [getField_encodeFields_before f MASTER_P (by decide) (by decide),
    getField_headerSlave_before f MASTER_P (by decide) (by decide)]
  exact getField_setIfSupplied_parity hbcast _ _ MASTER_P rfl (by decide) fun x =>
    getField_setWithParity_parity _ hbcast.1 MASTER MASTER_P rfl x

theorem getField_encodeFields_slaveParity (f : Supplied) :
    getField (encodeFields f) SLAVE_P = parityBit (f.slave.getD 0) := by
  have hmaster := endsBy_headerMaster f
  rw [getField_encodeFields_before f SLAVE_P (by decide) (by decide)]
  exact getField_setIfSupplied_parity hmaster _ _ SLAVE_P rfl (by decide) fun x =>
    getField_setWithParityAck_parity _ hmaster.1 SLAVE SLAVE_P SLAVE_A rfl rfl (by decide) x

theorem getField_encodeFields_slaveAck (f : Supplied) :
    getField (encodeFields f) SLAVE_A = if f.slave.isSome then NAK else 0 := by
  rw [getField_encodeFields_before f SLAVE_A (by decide) (by decide)]
  exact getField_setIfSupplied_ack (endsBy_headerMaster f) _ SLAVE SLAVE_P SLAVE_A rfl (by decide)

theorem getField_encodeFields_controlParity (f : Supplied) :
    getField (encodeFields f) CTRL_P = parityBit (f.control.getD 0) := by
  have hslave := endsBy_headerSlave f
  rw [getField_encodeFields_header f CTRL_P (by decide) (by decide), encodeHeader_eq]
  exact getField_setIfSupplied_parity hslave _ _ CTRL_P rfl (by decide) fun x =>
    getField_setWithParityAck_parity _ hslave.1 CTRL CTRL_P CTRL_A rfl rfl (by decide) x

theorem getField_encodeFields_controlAck (f : Supplied) :
    getField (encodeFields f) CTRL_A = if f.control.isSome then NAK else 0 := by
  rw [getField_encodeFields_header f CTRL_A (by decide) (by decide), encodeHeader_eq]
  exact getField_setIfSupplied_ack (endsBy_headerSlave f) _ CTRL CTRL_P CTRL_A rfl (by decide)

/-- The fields before the data units are as the data length unit leaves them. -/
theorem getField_encodeFields_beforeData (f : Supplied) (l : FieldLayout) (hl : l.length ≤ 12)
    (h : l.offset + l.length ≤ (DATA 0).offset) :
    getField (encodeFields f) l =
      getField (setIfSupplied (encodeHeader f) (f.data.map fun d => BitVec.ofNat 32 d.length)
        (setWithParityAck LEN LEN_P LEN_A)) l := by
  have hwf := (endsBy_encodeHeader f).1
  rw [encodeFields_eq]
  cases f.data with
  | none => rw [setData, Option.map_none, setIfSupplied]
  | some d =>
    rw [setData, getField_setDataUnits_before d _ (setWithParityAck_wf _ _ _ _ hwf _) 0 l hl h,
      Option.map_some, setIfSupplied]

theorem getField_encodeFields_lengthParity (f : Supplied) :
    getField (encodeFields f) LEN_P = parityBit (BitVec.ofNat 32 (f.data.getD []).length) := by
  have hheader := endsBy_encodeHeader f
  rw [getField_encodeFields_beforeData f LEN_P (by decide) (by decide),
    getField_setIfSupplied_parity hheader _ _ LEN_P rfl (by decide) fun x =>
      getField_setWithParityAck_parity _ hheader.1 LEN LEN_P LEN_A rfl rfl (by decide) x]
  cases f.data <;> rfl

theorem getField_encodeFields_lengthAck (f : Supplied) :
    getField (encodeFields f) LEN_A = if f.data.isSome then NAK else 0 := by
  rw [getField_encodeFields_beforeData f LEN_A (by decide) (by decide),
    getField_setIfSupplied_ack (endsBy_encodeHeader f) _ LEN LEN_P LEN_A rfl (by decide), Option.isSome_map]

/-- LEN of an encoded message as a result (R142, R144). -/
theorem getField_encodeFields_length (f : Supplied) (hf : ∀ d ∈ f.data, d.length ≤ maxData) :
    getField (encodeFields f) LEN = BitVec.ofNat 32 (f.data.getD []).length := by
  rw [← dataLength_encodeFields f hf, dataLength, BitVec.ofNat_toNat, BitVec.setWidth_eq]

/-! The data units of an encoded message. -/

/-- The later units keep data unit `i + j`: each of its fields is as its own writer left it. -/
theorem getField_setDataUnits_unit (d : List Byte) (m : Memory) (hm : m.wf) (i j : Nat)
    (hj : j < d.length) :
    ∃ m' : Memory, m'.wf ∧ ∀ l : FieldLayout, l.length ≤ 12 →
      l.offset + l.length ≤ (DATA (i + j + 1)).offset →
      getField (setDataUnits m i d) l =
        getField (setWithParityAck (DATA (i + j)) (DATA_P (i + j)) (DATA_A (i + j)) m'
          (d[j].setWidth 32)) l := by
  induction d generalizing m i j with
  | nil => cases hj
  | cons x d ih =>
    have hwf := setWithParityAck_wf (DATA i) (DATA_P i) (DATA_A i) m hm (x.setWidth 32)
    cases j with
    | zero => exact ⟨m, hm, fun l hl hend => getField_setDataUnits_before d _ hwf (i + 1) l hl hend⟩
    | succ j =>
      have hunit := ih _ hwf (i + 1) j (Nat.lt_of_succ_lt_succ hj)
      rwa [Nat.add_right_comm i 1 j] at hunit

/-- Data unit `j` of an encoded message is as its own writer left it. -/
theorem getField_encodeFields_unit (f : Supplied) (j : Nat) (hj : j < (f.data.getD []).length) :
    ∃ m : Memory, m.wf ∧ ∀ l : FieldLayout, l.length ≤ 12 →
      l.offset + l.length ≤ (DATA (j + 1)).offset →
      getField (encodeFields f) l =
        getField (setWithParityAck (DATA j) (DATA_P j) (DATA_A j) m
          ((f.data.getD [])[j].setWidth 32)) l := by
  have hwf := (endsBy_encodeHeader f).1
  simp only [encodeFields_eq]
  revert hj
  cases f.data with
  | none => exact fun hj => absurd hj (Nat.not_lt_zero j)
  | some d =>
    intro hj
    have hunit := getField_setDataUnits_unit d _
      (setWithParityAck_wf LEN LEN_P LEN_A _ hwf (BitVec.ofNat 32 d.length)) 0 j hj
    rwa [Nat.zero_add] at hunit

section
variable (f : Supplied) (j : Nat) (hj : j < (f.data.getD []).length)
include hj

theorem getField_encodeFields_data :
    getField (encodeFields f) (DATA j) = (f.data.getD [])[j].setWidth 32 := by
  obtain ⟨m, hm, hunit⟩ := getField_encodeFields_unit f j hj
  rw [hunit (DATA j) (by simp [DATA]) (by simp only [DATA, dataStride]; omega),
    getField_setDataUnit_same m hm]

theorem getField_encodeFields_dataParity :
    getField (encodeFields f) (DATA_P j) = parityBit ((f.data.getD [])[j].setWidth 32) := by
  obtain ⟨m, hm, hunit⟩ := getField_encodeFields_unit f j hj
  rw [hunit (DATA_P j) (by simp [DATA_P]) (by simp only [DATA, DATA_P, dataStride]; omega),
    getField_setWithParityAck_parity m hm _ _ _ rfl rfl (.inr (by simp only [DATA_P, DATA_A]; omega))]

theorem getField_encodeFields_dataAck : getField (encodeFields f) (DATA_A j) = NAK := by
  obtain ⟨m, hm, hunit⟩ := getField_encodeFields_unit f j hj
  rw [hunit (DATA_A j) (by simp [DATA_A]) (by simp only [DATA, DATA_A, dataStride]; omega),
    getField_setWithParityAck_ack m hm _ _ _ rfl]

end

/-! All of it as message bits. -/

/-- Every supplied value fits its field (R142). -/
structure Supplied.Fits (f : Supplied) : Prop where
  bcast : ∀ x ∈ f.bcast, x.toNat ≤ 1
  master : ∀ x ∈ f.master, x.toNat ≤ 0xFFF
  slave : ∀ x ∈ f.slave, x.toNat ≤ 0xFFF
  control : ∀ x ∈ f.control, x.toNat ≤ 0xF
  data : ∀ d ∈ f.data, d.length ≤ 64

theorem Supplied.Fits.getField_master {f : Supplied} (h : f.Fits) :
    getField (encodeFields f) MASTER = f.master.getD 0 :=
  getField_encodeFields_master f fun x hx => Nat.lt_succ_of_le (h.master x hx)

theorem Supplied.Fits.getField_slave {f : Supplied} (h : f.Fits) :
    getField (encodeFields f) SLAVE = f.slave.getD 0 :=
  getField_encodeFields_slave f fun x hx => Nat.lt_succ_of_le (h.slave x hx)

theorem Supplied.Fits.getField_control {f : Supplied} (h : f.Fits) :
    getField (encodeFields f) CTRL = f.control.getD 0 :=
  getField_encodeFields_control f fun x hx => Nat.lt_succ_of_le (h.control x hx)

/-- The message bits of a field spell what the field reads. -/
theorem bitsValue_of_getField {m : Memory} {l : FieldLayout} {v : Word32} (hl : l.length ≤ 12)
    (h : getField m l = v) : bitsValue m l.offset l.length = v.toNat := by
  rw [← toNat_getField m l hl, h]

theorem bitsValue_of_parity {m : Memory} {p : FieldLayout} {v : Word32} (hp : p.length = 1)
    (h : getField m p = parityBit v) : bitsValue m p.offset 1 = popcount v % 2 := by
  rw [← hp, bitsValue_of_getField (by omega) h, toNat_parityBit]

theorem bitsValue_of_ack {m : Memory} {k : FieldLayout} {c : Prop} [Decidable c] (hk : k.length = 1)
    (h : getField m k = if c then NAK else 0) : bitsValue m k.offset 1 = if c then 1 else 0 := by
  have hbits := bitsValue_of_getField (l := k) (by omega) h
  rw [hk] at hbits
  rw [hbits]
  split <;> rfl

/-- Data unit `i` as message bits (R94). -/
theorem bitsValue_encodeFields_unit (f : Supplied) (i : Nat) (hi : i < (f.data.getD []).length) :
    bitsValue (encodeFields f) (44 + 10 * i) 8 = ((f.data.getD []).getD i 0).toNat ∧
    bitsValue (encodeFields f) (52 + 10 * i) 1 =
      popcount (((f.data.getD []).getD i 0).setWidth 32) % 2 ∧
    bitsValue (encodeFields f) (53 + 10 * i) 1 = 1 := by
  obtain ⟨-, -, -, -, -, -, -, -, -, -, -, -, hlayout⟩ := namedLayoutsByTable
  obtain ⟨-, hparity, hack⟩ := hlayout i
  rw [List.getD_eq_getElem _ _ hi]
  refine ⟨?_, ?_, ?_⟩
  · have hbyte := bitsValue_of_getField (by simp [DATA]) (getField_encodeFields_data f i hi)
    rwa [BitVec.toNat_setWidth, Nat.mod_eq_of_lt (by omega)] at hbyte
  · simpa only [hparity] using
      bitsValue_of_parity (p := DATA_P i) rfl (getField_encodeFields_dataParity f i hi)
  · have hnak := bitsValue_of_getField (by simp [DATA_A]) (getField_encodeFields_dataAck f i hi)
    rw [hack] at hnak
    exact hnak

/-- The encode-path writer leaves what R141 says of the supplied fields. -/
theorem Supplied.Fits.encoded {f : Supplied} (h : f.Fits) : Encoded (encodeFields f) f := by
  obtain ⟨hwf, hend⟩ := endsBy_encodeFields f
  have hbcast := getField_encodeFields_bcast f fun x hx => Nat.lt_succ_of_le (h.bcast x hx)
  have hlength : dataLength (encodeFields f) = _ := dataLength_encodeFields f h.data
  exact ⟨hwf, bitsValue_of_getField (l := BCAST) (by decide) hbcast,
    bitsValue_of_getField (l := MASTER) (by decide) h.getField_master,
    bitsValue_of_parity (p := MASTER_P) rfl (getField_encodeFields_masterParity f),
    bitsValue_of_getField (l := SLAVE) (by decide) h.getField_slave,
    bitsValue_of_parity (p := SLAVE_P) rfl (getField_encodeFields_slaveParity f),
    bitsValue_of_ack (k := SLAVE_A) rfl (getField_encodeFields_slaveAck f),
    bitsValue_of_getField (l := CTRL) (by decide) h.getField_control,
    bitsValue_of_parity (p := CTRL_P) rfl (getField_encodeFields_controlParity f),
    bitsValue_of_ack (k := CTRL_A) rfl (getField_encodeFields_controlAck f),
    (toNat_getField _ LEN (by decide)).symm.trans hlength,
    bitsValue_of_parity (p := LEN_P) rfl (getField_encodeFields_lengthParity f),
    bitsValue_of_ack (k := LEN_A) rfl (getField_encodeFields_lengthAck f),
    bitsValue_encodeFields_unit f, hend⟩

/-- Settles O27: field by field, what `encodeFields` stores, read as message bits. -/
theorem encodeFieldsWritesEachSuppliedField : Obligations.EncodeFieldsWritesEachSuppliedField :=
  fun _ hbcast hmaster hslave hcontrol hdata =>
    Supplied.Fits.encoded ⟨hbcast, hmaster, hslave, hcontrol, hdata⟩

end Sys2Proof.Machine
end

section
/-! The operands of the encode-path constructors, with their errors in the order of the rules, and what the
two commands answer (R84, R98, R142, R144). -/
namespace Sys2Proof.Machine

open Sys2Proof.Claims

/-! BUILD_FIELDS. -/

theorem fits_iff (limit : Nat) (v : Option Word32) :
    fits limit v = true ↔ ∀ x ∈ v, x.toNat ≤ limit := by
  cases v <;> simp [fits]

theorem inRange_iff_fits (f : Supplied) : f.inRange = true ↔ f.Fits := by
  have hdata : (f.data.all fun d => decide (d.length ≤ maxData)) = true ↔
      ∀ d ∈ f.data, d.length ≤ maxData := by
    cases f.data <;> simp
  simp only [Supplied.inRange, Bool.and_eq_true, fits_iff, hdata]
  exact ⟨fun ⟨⟨⟨⟨hb, hm⟩, hs⟩, hc⟩, hd⟩ => ⟨hb, hm, hs, hc, hd⟩,
    fun ⟨hb, hm, hs, hc, hd⟩ => ⟨⟨⟨⟨hb, hm⟩, hs⟩, hc⟩, hd⟩⟩

/-- A bound on a value that is supplied when its mask bit is set. -/
theorem forall_mem_ite_some {α : Type} (c : Prop) [Decidable c] (x : α) (size : α → Nat) (limit : Nat) :
    (∀ y ∈ if c then some x else none, size y ≤ limit) ↔ ¬ (c ∧ limit < size x) := by
  by_cases hc : c <;> simp [hc]

/-- The values the mask supplies fit exactly when none of R142's range conditions holds. -/
theorem fits_suppliedByMask_iff (mask b m a c : Word32) (inp : List Byte) :
    (suppliedByMask mask b m a c inp).Fits ↔
      ¬ ((mask.getLsbD 0 ∧ 1 < b.toNat) ∨ (mask.getLsbD 1 ∧ 0xFFF < m.toNat) ∨
        (mask.getLsbD 2 ∧ 0xFFF < a.toNat) ∨ (mask.getLsbD 3 ∧ 0xF < c.toNat) ∨
        (mask.getLsbD 4 ∧ 64 < inp.length)) := by
  simp only [not_or, ← forall_mem_ite_some _ _ BitVec.toNat, ← forall_mem_ite_some _ _ List.length]
  exact ⟨fun ⟨hb, hm, hs, hc, hd⟩ => ⟨hb, hm, hs, hc, hd⟩,
    fun ⟨hb, hm, hs, hc, hd⟩ => ⟨hb, hm, hs, hc, hd⟩⟩

theorem shiftRight_ne_zero_iff (mask : Word32) (n : Nat) : mask >>> n ≠ 0 ↔ mask.toNat / 2 ^ n ≠ 0 := by
  rw [Ne, ← BitVec.toNat_inj, BitVec.toNat_ushiftRight, Nat.shiftRight_eq_div_pow]
  rfl

/-- The operands of BUILD_FIELDS by R142: the reserved mask bits, then the ranges. -/
theorem parseFields_eq (mask b m a c : Word32) (inp : List Byte) :
    parseFields mask b m a c inp =
      if mask.toNat / 2 ^ 5 ≠ 0 then .error .formatError
      else if (mask.getLsbD 0 ∧ 1 < b.toNat) ∨ (mask.getLsbD 1 ∧ 0xFFF < m.toNat) ∨
          (mask.getLsbD 2 ∧ 0xFFF < a.toNat) ∨ (mask.getLsbD 3 ∧ 0xF < c.toNat) ∨
          (mask.getLsbD 4 ∧ 64 < inp.length) then .error .rangeError
      else .ok (suppliedByMask mask b m a c inp) := by
  have hrange := (inRange_iff_fits _).trans (fits_suppliedByMask_iff mask b m a c inp)
  simp only [parseFields, shiftRight_ne_zero_iff, hrange, ite_not]

/-- The data length of the fields the mask supplies. -/
theorem suppliedByMask_data_length (mask b m a c : Word32) (inp : List Byte) :
    ((suppliedByMask mask b m a c inp).data.getD []).length = if mask.getLsbD 4 then inp.length else 0 := by
  simp only [suppliedByMask]
  split <;> rfl

/-- A constructor whose supplied fields fit answers their data length (R142, R144). -/
theorem buildMessage_fits {f : Supplied} (hf : f.Fits) (s : State) :
    buildMessage (.ok f) s = .next
      (completedWith (BitVec.ofNat 32 (f.data.getD []).length) 0 [] (s.commitMessage (encodeFields f))) := by
  rw [buildMessage_ok, getField_encodeFields_length f hf.data]

/-- An operand check that fails ends the constructor with its error, else the next check decides. -/
theorem buildMessage_guard (c : Prop) [Decidable c] (e : ErrorCode) (operands : Except ErrorCode Supplied)
    (s t : State) (h : ¬ c → buildMessage operands s = .next t) :
    buildMessage (if c then .error e else operands) s =
      .next (if c then abortedWith (errorIndex e) s else t) := by
  by_cases hc : c
  · rw [if_pos hc, if_pos hc, buildMessage_error]
  · rw [if_neg hc, if_neg hc, h hc]

/-- Settles O28: the two checks of `parseFields_eq` in order, then the message of the fields that fit. -/
theorem buildFieldsByRule : Obligations.BuildFieldsByRule := by
  intro mask b m a c inp s
  rw [exec, execBuildFields, parseFields_eq]
  refine buildMessage_guard _ .formatError _ s _ fun _ =>
    buildMessage_guard _ .rangeError _ s _ fun hrange => ?_
  rw [buildMessage_fits ((fits_suppliedByMask_iff mask b m a c inp).2 hrange), suppliedByMask_data_length]
  rfl

/-! BUILD_TOKENS. -/

/-- The fields a token string stands for (R98). -/
def suppliedByTokens (tok : List (List Byte)) : Supplied where
  bcast := some (if tok.getD 0 [] = [0x42] then 0 else 1)
  master := some (BitVec.ofNat 32 (hexValue (tok.getD 1 [])))
  slave := some (BitVec.ofNat 32 (hexValue (tok.getD 2 [])))
  control := some 0xF
  data := some ((tok.drop 3).map fun t => BitVec.ofNat 8 (hexValue t))

/-- The operands of BUILD_TOKENS by R144: the token count and the hexadecimal tokens, then the number of
data tokens and the ranges. -/
theorem parseTokens_eq (inp : List Byte) (tok : List (List Byte)) (htok : tok = tokens (stripColons inp)) :
    parseTokens inp =
      if tok.length < 5 then .error .formatError
      else if ∃ t ∈ tok.drop 1, isHex t = false then .error .formatError
      else if 64 < tok.length - 3 then .error .rangeError
      else if 0xFFF < hexValue (tok.getD 1 []) ∨ 0xFFF < hexValue (tok.getD 2 []) ∨
          ∃ t ∈ tok.drop 3, 0xFF < hexValue t then .error .rangeError
      else .ok (suppliedByTokens tok) := by
  have hhex : (¬ (tok.drop 1).all isHex = true) ↔ ∃ t ∈ tok.drop 1, isHex t = false := by simp
  have hdata : ((tok.drop 3).any fun t => decide (0xFF < hexValue t)) = true ↔
      ∃ t ∈ tok.drop 3, 0xFF < hexValue t := by simp
  simp only [parseTokens, ← htok, hhex, hdata, List.length_drop, maxData, ite_or]
  rfl

/-- The fields of a token string within R144's ranges fit. -/
theorem fits_suppliedByTokens {tok : List (List Byte)} (hcount : ¬ 64 < tok.length - 3)
    (hrange : ¬ (0xFFF < hexValue (tok.getD 1 []) ∨ 0xFFF < hexValue (tok.getD 2 []) ∨
      ∃ t ∈ tok.drop 3, 0xFF < hexValue t)) : (suppliedByTokens tok).Fits := by
  have haddress (v : Nat) (hv : ¬ 0xFFF < v) : (BitVec.ofNat 32 v).toNat ≤ 0xFFF := by
    rw [BitVec.toNat_ofNat]
    omega
  obtain ⟨hmaster, hslave, -⟩ : _ ∧ _ ∧ _ := by simpa only [not_or] using hrange
  refine ⟨?_, ?_, ?_, ?_, ?_⟩ <;> rintro _ ⟨⟩
  · split <;> decide
  · exact haddress _ hmaster
  · exact haddress _ hslave
  · decide
  · rw [List.length_map, List.length_drop]
    omega

/-- Settles O29: the four checks of `parseTokens_eq` in order, then the message of the fields that fit. -/
theorem buildTokensByRule : Obligations.BuildTokensByRule := by
  intro inp s tok htok
  have hstrip : tok = tokens (stripColons inp) := by
    rw [htok, stripColons]
    congr 2
    funext c
    simp [bne, Bool.beq_eq_decide_eq]
  rw [exec, execBuildTokens, parseTokens_eq inp tok hstrip]
  refine buildMessage_guard _ .formatError _ s _ fun _ => buildMessage_guard _ .formatError _ s _ fun _ =>
    buildMessage_guard _ .rangeError _ s _ fun hcount =>
      buildMessage_guard _ .rangeError _ s _ fun hrange => ?_
  have hlength : ((suppliedByTokens tok).data.getD []).length = tok.length - 3 := by
    simp [suppliedByTokens]
  rw [buildMessage_fits (fits_suppliedByTokens hcount hrange), hlength]
  rfl

/-- A constructor of the encode path that completes has been given fields that fit (R142, R144). -/
theorem Encodes.exists_fits {i : Instr} {w : Memory} (h : Encodes i w) :
    ∃ f : Supplied, f.Fits ∧ w = encodeFields f := by
  cases h with
  | buildFields h =>
    rw [parseFields_eq] at h
    split_ifs at h with _ hrange
    cases h
    exact ⟨_, (fits_suppliedByMask_iff _ _ _ _ _ _).2 hrange, rfl⟩
  | buildTokens h =>
    rw [parseTokens_eq _ _ rfl] at h
    split_ifs at h with _ _ hcount hrange
    cases h
    exact ⟨_, fits_suppliedByTokens hcount hrange, rfl⟩

end Sys2Proof.Machine
end

section
/-! What VALIDATE finds: one finding bit per parity check (R40, R147, R148). -/
namespace Sys2Proof.Machine

open Sys2Proof.Claims

/-- The vector made of bits holds each of them at its place. -/
theorem getLsbD_bitsBelow (f : Nat → Bool) (n j : Nat) (hj : j < 68) :
    (bitsBelow f n).getLsbD j = (decide (j < n) && f j) := by
  induction n with
  | zero => simp [bitsBelow]
  | succ n ih =>
    have hbit : (if f n then 1#68 <<< n else 0).getLsbD j = (decide (j = n) && f n) := by
      cases hf : f n with
      | false => simp
      | true =>
        simp only [if_true, BitVec.getLsbD_shiftLeft, BitVec.getLsbD_one, hj, decide_true, Bool.true_and,
          Bool.and_true, ← decide_not, ← Bool.decide_and, decide_eq_decide]
        omega
    rw [bitsBelow, BitVec.getLsbD_or, ih, hbit]
    by_cases hjn : j = n
    · simp [hjn]
    · have hlt : j < n ↔ j < n + 1 := by omega
      simp [hjn, hlt]

theorem getLsbD_findings (m : Memory) (j : Nat) (hj : j < 68) : (findings m).getLsbD j = finding m j := by
  rw [findings, getLsbD_bitsBelow _ _ _ hj, decide_eq_true hj, Bool.true_and]

theorem findings_eq_of_finding_eq {m n : Memory} (h : ∀ j, finding m j = finding n j) :
    findings m = findings n :=
  BitVec.eq_of_getLsbD_eq fun j hj => by rw [getLsbD_findings m j hj, getLsbD_findings n j hj, h]

theorem findings_eq_zero {m : Memory} (h : ∀ j, finding m j = false) : findings m = 0 :=
  BitVec.eq_of_getLsbD_eq fun j hj => by
    rw [getLsbD_findings m j hj, h, BitVec.ofNat_eq_ofNat, BitVec.getLsbD_zero]

/-- A parity check fails when the stored bit is not the parity of the field it protects (R125, R147). -/
theorem mismatch_iff (m : Memory) (f p : FieldLayout) (hp : p.length = 1) :
    mismatch m f p = true ↔ bitsValue m p.offset 1 ≠ popcount (getField m f) % 2 := by
  rw [mismatch, bne_iff_ne, Ne, ← BitVec.toNat_inj, toNat_getField m p (by omega), toNat_parityBit, hp]

theorem finding_data_iff (m : Memory) (i : Nat) :
    finding m (i + 4) = true ↔
      i < dataLength m ∧ bitsValue m (52 + 10 * i) 1 ≠ popcount (getField m (DATA i)) % 2 := by
  obtain ⟨-, -, -, -, -, -, -, -, -, -, -, -, hlayout⟩ := namedLayoutsByTable
  obtain ⟨-, hparity, -⟩ := hlayout i
  rw [finding, Bool.and_eq_true, decide_eq_true_eq, mismatch_iff m (DATA i) (DATA_P i) rfl, hparity]

/-- Settles O33: each bit is one `mismatch`; past bit 67 there is none, and no data byte either. -/
theorem findingsNameTheMismatchedFields : Obligations.FindingsNameTheMismatchedFields := by
  intro m hlen
  have hbit (j : Nat) (hj : j < 68) : (findings m).getLsbD j = true ↔ finding m j = true := by
    rw [getLsbD_findings m j hj]
  refine ⟨(hbit 0 (by decide)).trans (mismatch_iff m MASTER MASTER_P rfl),
    (hbit 1 (by decide)).trans (mismatch_iff m SLAVE SLAVE_P rfl),
    (hbit 2 (by decide)).trans (mismatch_iff m CTRL CTRL_P rfl),
    (hbit 3 (by decide)).trans (mismatch_iff m LEN LEN_P rfl), fun i => ?_⟩
  rw [Nat.add_comm 4 i]
  by_cases hi : i + 4 < 68
  · exact (hbit (i + 4) hi).trans (finding_data_iff m i)
  · rw [BitVec.getLsbD_of_ge _ _ (by omega)]
    exact iff_of_false Bool.false_ne_true fun h => by omega

/-- A command that reads MSG answers NoMessage, or what it answers with a message (R243). -/
theorem withMessage_answer (s t : State) (k : Memory → Result)
    (h : s.msgValid = true → k s.msg = .next t) :
    withMessage s k = .next (if s.msgValid = false then abortedWith 5 s else t) := by
  cases hv : s.msgValid with
  | false => rw [withMessage_invalid s k hv, if_pos rfl]
  | true => rw [withMessage_valid s k hv, h hv, if_neg (by decide)]

/-- Settles O34: with a message VALIDATE ends with the verdict on its findings. -/
theorem validateByRule : Obligations.ValidateByRule := by
  intro s
  rw [exec, execValidate]
  exact withMessage_answer s _ _ fun _ => finish_verdict _ s

end Sys2Proof.Machine
end

section
/-! DECODE_BYTES and the views of a message, by message bits (R100, R146, R149 to R151). -/
namespace Sys2Proof.Machine

open Sys2Proof.Claims

theorem dataLength_eq_bitsValue (m : Memory) : dataLength m = bitsValue m 34 8 :=
  toNat_getField m LEN (by decide)

theorem dataLength_lt (m : Memory) : dataLength m < 256 := getField_lt m LEN (by decide)

/-- Settles O32: the message is the copy of IN, and the four checks have one outcome. -/
theorem decodeBytesByRule : Obligations.DecodeBytesByRule := by
  intro inp s
  refine ⟨Memory.ofBytes inp, ofBytes_wf inp, read_ofBytes inp, ?_⟩
  rw [exec, execDecodeBytes_eq, ← dataLength_eq_bitsValue]
  simp only [ite_or]
  rfl

/-! AS_BYTES. -/

theorem byteView_eq (m : Memory) :
    byteView m = (List.range (byteLengthOfMessage (dataLength m))).map m.read := by
  simp [byteView, Memory.bytes]

theorem byteView_length (m : Memory) : (byteView m).length = byteLengthOfMessage (dataLength m) :=
  bytes_length _ _ _

theorem countResult_byteView (m : Memory) :
    countResult (byteView m).length = BitVec.ofNat 32 (byteLengthOfMessage (dataLength m)) := by
  have hlen := dataLength_lt m
  rw [byteView_length, countResult_of_lt]
  simp only [byteLengthOfMessage, bitLengthOfMessage, headerBits, dataStride, ceilDiv8]
  omega

/-- Settles O35: with a message AS_BYTES delivers `byteView`. -/
theorem asBytesByRule : Obligations.AsBytesByRule := by
  intro s nb hnb
  have hlength : nb = byteLengthOfMessage (dataLength s.msg) := by
    rw [hnb, ← dataLength_eq_bitsValue]
    rfl
  rw [exec, execAsBytes]
  refine withMessage_answer s _ _ fun _ => ?_
  rw [finish_ok, countResult_byteView, byteView_eq, hlength]

/-! DISPLAY. -/

theorem hexChar_eq (d : Nat) :
    hexChar d = BitVec.ofNat 8 (if d < 10 then 0x30 + d else 0x61 + (d - 10)) := by
  rw [hexChar]
  congr 1
  split <;> omega

theorem hexChar_decimal {d : Nat} (h : d < 10) : hexChar d = BitVec.ofNat 8 (0x30 + d) := by
  rw [hexChar, if_pos h]

/-- Digit `k` of `n`, most significant first (R100). -/
theorem getElem?_hexDigits (n v k : Nat) (hk : k < n) :
    (hexDigits n v)[k]? = some (hexChar (v / 16 ^ (n - 1 - k) % 16)) := by
  induction n generalizing k with
  | zero => cases hk
  | succ n ih =>
    cases k with
    | zero => rfl
    | succ k =>
      have hpos : n + 1 - 1 - (k + 1) = n - 1 - k := by omega
      rw [hexDigits, List.getElem?_cons_succ, ih k (Nat.lt_of_succ_lt_succ hk), hpos]

theorem decimal2_of_lt_ten {v : Nat} (h : v < 10) : decimal2 v = [0x20, BitVec.ofNat 8 (0x30 + v)] := by
  rw [decimal2, if_pos h, hexChar_decimal h]

theorem decimal2_of_two_digits {v : Nat} (h10 : 10 ≤ v) (h100 : v < 100) :
    decimal2 v = [BitVec.ofNat 8 (0x30 + v / 10), BitVec.ofNat 8 (0x30 + v % 10)] := by
  rw [decimal2, if_neg (by omega), if_pos h100, hexChar_decimal (by omega), hexChar_decimal (by omega)]

theorem decimal2_length {v : Nat} (h : v < 100) : (decimal2 v).length = 2 := by
  by_cases h10 : v < 10
  · rw [decimal2_of_lt_ten h10]
    rfl
  · rw [decimal2_of_two_digits (by omega) h]
    rfl

/-- The broadcast flag is message bit 0 (R92, R95). -/
theorem getField_bcast (m : Memory) : getField m BCAST = if msgBit m 0 then UNICAST else BROADCAST := by
  rw [getField_eq_bitsValue m BCAST (by decide)]
  simp only [BCAST, bitsValue_succ]
  cases msgBit m 0 <;> rfl

theorem toNat_dataByte (m : Memory) (i : Nat) : (dataByte m i).toNat = bitsValue m (44 + 10 * i) 8 := by
  have hfield : (getField m (DATA i)).toNat < 2 ^ 8 := getField_lt m (DATA i) (by simp [DATA])
  rw [dataByte, BitVec.toNat_setWidth, Nat.mod_eq_of_lt hfield, toNat_getField m (DATA i) (by simp [DATA])]
  rfl

/-- The display string by message bits (R100). -/
theorem displayString_eq (m : Memory) :
    displayString m =
      [if msgBit m 0 then 0x2D else 0x42, 0x20] ++ hexDigits 3 (bitsValue m 1 12) ++ [0x20] ++
        hexDigits 3 (bitsValue m 14 12) ++ [0x20] ++ hexDigits 1 (bitsValue m 28 4) ++ [0x20] ++
        decimal2 (bitsValue m 34 8) ++ [0x20, 0x3A] ++
        (List.range (bitsValue m 34 8)).flatMap
          (fun i => 0x20 :: hexDigits 2 (bitsValue m (44 + 10 * i) 8)) := by
  have htype : (if getField m BCAST = BROADCAST then (0x42 : Byte) else 0x2D) =
      if msgBit m 0 then 0x2D else 0x42 := by
    rw [getField_bcast]
    cases msgBit m 0 <;> rfl
  have hmaster : (getField m MASTER).toNat = bitsValue m 1 12 := toNat_getField m MASTER (by decide)
  have hslave : (getField m SLAVE).toNat = bitsValue m 14 12 := toNat_getField m SLAVE (by decide)
  have hcontrol : (getField m CTRL).toNat = bitsValue m 28 4 := toNat_getField m CTRL (by decide)
  rw [displayString, htype, hmaster, hslave, hcontrol, dataBytes, List.flatMap_map, dataLength_eq_bitsValue]
  simp only [toNat_dataByte]

/-- The longest display string has 208 bytes (R150). -/
theorem displayString_length_le_208 (m : Memory) (h : dataLength m ≤ 64) :
    (displayString m).length ≤ 208 := by
  have hdec := decimal2_length (show dataLength m < 100 by omega)
  simp [displayString, hexDigits_length, dataBytes_length, List.length_flatMap, hdec]
  omega

theorem countResult_displayString (m : Memory) :
    countResult (displayString m).length = BitVec.ofNat 32 (displayString m).length := by
  have hlen := dataLength_lt m
  have hdisplay := displayString_length_le m
  exact countResult_of_lt _ (by omega)

/-- Settles O36: the digits of `hexDigits` and `decimal2`, and the string DISPLAY delivers. -/
theorem displayByRule : Obligations.DisplayByRule := by
  refine ⟨fun n v => ⟨hexDigits_length n v, fun k hk => ⟨_, rfl, ?_⟩⟩, fun v => decimal2_of_lt_ten,
    fun v => decimal2_of_two_digits, fun s text htext => ?_⟩
  · rw [getElem?_hexDigits n v k hk, hexChar_eq]
  · rw [← displayString_eq] at htext
    subst htext
    rw [← dataLength_eq_bitsValue]
    refine ⟨?_, displayString_length_le_208 s.msg⟩
    rw [exec, execDisplay]
    refine withMessage_answer s _ _ fun _ => ?_
    rw [finish_ok, countResult_displayString]

/-! DECODE_VIEW. -/

/-- The data bytes by message bits (R94). -/
theorem dataBytes_eq (m : Memory) :
    dataBytes m = (List.range (bitsValue m 34 8)).map fun i =>
      BitVec.ofNat 8 (bitsValue m (44 + 10 * i) 8) := by
  simp only [dataBytes, dataLength_eq_bitsValue, ← toNat_dataByte, BitVec.ofNat_toNat, BitVec.setWidth_eq]

theorem adjustedData_eq (m : Memory) :
    adjustedData m = if msgBit m 0 then (dataBytes m).tail else dataBytes m := by
  rw [adjustedData, getField_bcast, List.drop_one]
  cases msgBit m 0 <;> rfl

theorem identifier_eq (adj : List Byte) (i : Nat) :
    identifier adj i = BitVec.ofNat 32 (adj.getD i 0).toNat := by
  rw [identifier, BitVec.ofNat_toNat]

/-- Settles O37: with a message DECODE_VIEW delivers the adjusted data and its first two bytes. -/
theorem decodeViewByRule : Obligations.DecodeViewByRule := by
  intro s raw adj hraw hadj
  have hview : adjustedData s.msg = adj := by rw [adjustedData_eq, dataBytes_eq, ← hraw, ← hadj]
  rw [exec, execDecodeView]
  refine withMessage_answer s _ _ fun _ => ?_
  rw [finish_ok, hview, identifier_eq, identifier_eq]

end Sys2Proof.Machine
end

section
/-! What a completed constructor has built, and the round trip through AS_BYTES and DECODE_BYTES (R152,
R154). -/
namespace Sys2Proof.Machine

/-! A constructor that completes. -/

/-- An instruction of the encode path (R142, R144). -/
abbrev OnEncodePath (i : Instr) : Prop :=
  (∃ mask b m a c inp, i = .buildFields mask b m a c inp) ∨ ∃ inp, i = .buildTokens inp

/-- No error has a code below 0x10 (R241). -/
theorem not_completes_abortedWith (e : ErrorCode) (s : State) :
    ¬ (abortedWith (errorIndex e) s).status.toNat < 0x10 := by
  cases e <;> simp [abortedWith, errorIndex]

theorem buildMessage_completes {operands : Except ErrorCode Supplied} {s t : State}
    (h : buildMessage operands s = .next t) (hstatus : t.status.toNat < 0x10) :
    ∃ f, operands = .ok f ∧ t.msgValid = true ∧ t.msg = encodeFields f := by
  cases operands with
  | error e =>
    rw [buildMessage_error, Host.Outcome.next.injEq] at h
    exact absurd hstatus (h ▸ not_completes_abortedWith e s)
  | ok f =>
    rw [buildMessage_ok, Host.Outcome.next.injEq] at h
    exact ⟨f, rfl, h ▸ ⟨rfl, rfl⟩⟩

/-- An encode-path command that completes leaves the message of fields that fit. -/
theorem encodePath_completes {i : Instr} {s t : State} (hi : OnEncodePath i) (h : exec i s = .next t)
    (hstatus : t.status.toNat < 0x10) :
    t.msgValid = true ∧ ∃ f : Supplied, f.Fits ∧ t.msg = encodeFields f := by
  obtain ⟨mask, b, m, a, c, inp, rfl⟩ | ⟨inp, rfl⟩ := hi
  · obtain ⟨f, hf, hvalid, hmsg⟩ := buildMessage_completes h hstatus
    exact ⟨hvalid, hmsg ▸ (Encodes.buildFields hf).exists_fits⟩
  · obtain ⟨f, hf, hvalid, hmsg⟩ := buildMessage_completes h hstatus
    exact ⟨hvalid, hmsg ▸ (Encodes.buildTokens hf).exists_fits⟩

/-- DECODE_BYTES that completes leaves the copy of an IN that passes its checks. -/
theorem decodeBytes_completes {inp : List Byte} {s t : State} (h : exec (.decodeBytes inp) s = .next t)
    (hstatus : t.status.toNat < 0x10) :
    Decodable inp ∧ t.msgValid = true ∧ t.msg = Memory.ofBytes inp := by
  by_cases hd : Decodable inp
  · rw [hd.exec_eq, Host.Outcome.next.injEq] at h
    exact ⟨hd, h ▸ ⟨rfl, rfl⟩⟩
  · rw [exec, execDecodeBytes_eq, if_pos (not_not.1 hd), Host.Outcome.next.injEq] at h
    exact absurd hstatus (h ▸ not_completes_abortedWith .decodeError s)

/-! Encode-path messages have no finding. -/

theorem mismatch_eq_false {m : Memory} {f p : FieldLayout} {v : Word32} (hf : getField m f = v)
    (hp : getField m p = parityBit v) : mismatch m f p = false := by
  rw [mismatch, hf, hp, bne_self_eq_false]

/-- Every parity of an encoded message is the one of its field (R152). -/
theorem Supplied.Fits.findings_encodeFields {f : Supplied} (h : f.Fits) : findings (encodeFields f) = 0 := by
  refine findings_eq_zero fun j => ?_
  match j with
  | 0 => exact mismatch_eq_false h.getField_master (getField_encodeFields_masterParity f)
  | 1 => exact mismatch_eq_false h.getField_slave (getField_encodeFields_slaveParity f)
  | 2 => exact mismatch_eq_false h.getField_control (getField_encodeFields_controlParity f)
  | 3 =>
    exact mismatch_eq_false (getField_encodeFields_length f h.data) (getField_encodeFields_lengthParity f)
  | i + 4 =>
    rw [finding, dataLength_encodeFields f h.data]
    by_cases hi : i < (f.data.getD []).length
    · rw [mismatch_eq_false (getField_encodeFields_data f i hi) (getField_encodeFields_dataParity f i hi),
        Bool.and_false]
    · rw [decide_eq_false hi, Bool.false_and]

/-- Settles O38: the message is one of fields that fit, so VALIDATE finds nothing. -/
theorem encodePathMessagesValidate : Obligations.EncodePathMessagesValidate := by
  intro i s t hi hexec hstatus
  obtain ⟨hvalid, f, hf, hmsg⟩ := encodePath_completes hi hexec (by rw [hstatus]; decide)
  rw [validateByRule, if_neg (by simp [hvalid]), hmsg, hf.findings_encodeFields]

/-! The bytes of a message hold all its bits. -/

/-- The message bits up to the declared length decide the length and the findings (R147). -/
theorem findings_congr {m n : Memory}
    (h : ∀ i, i < bitLengthOfMessage (dataLength m) → msgBit n i = msgBit m i) :
    dataLength n = dataLength m ∧ findings n = findings m := by
  have hfield (l : FieldLayout) (hl : Inside (bitLengthOfMessage (dataLength m)) l) :
      getField n l = getField m l := by
    obtain ⟨hwidth, hend⟩ := hl
    exact getField_congr n m l hwidth fun i _ hi => h i (hi.trans_le hend)
  have hmismatch (f p : FieldLayout) (hf : Inside (bitLengthOfMessage (dataLength m)) f)
      (hp : Inside (bitLengthOfMessage (dataLength m)) p) : mismatch n f p = mismatch m f p := by
    rw [mismatch, mismatch, hfield f hf, hfield p hp]
  have hheader (l : FieldLayout) (hl : Inside headerBits l) :
      Inside (bitLengthOfMessage (dataLength m)) l := ⟨hl.1, hl.2.trans (Nat.le_add_right _ _)⟩
  have hlength : dataLength n = dataLength m := congrArg BitVec.toNat (hfield LEN (hheader _ (by decide)))
  refine ⟨hlength, findings_eq_of_finding_eq fun j => ?_⟩
  match j with
  | 0 => exact hmismatch MASTER MASTER_P (hheader _ (by decide)) (hheader _ (by decide))
  | 1 => exact hmismatch SLAVE SLAVE_P (hheader _ (by decide)) (hheader _ (by decide))
  | 2 => exact hmismatch CTRL CTRL_P (hheader _ (by decide)) (hheader _ (by decide))
  | 3 => exact hmismatch LEN LEN_P (hheader _ (by decide)) (hheader _ (by decide))
  | i + 4 =>
    rw [finding, finding, hlength]
    by_cases hi : i < dataLength m
    · rw [hmismatch (DATA i) (DATA_P i)] <;>
        simp only [Inside, DATA, DATA_P, bitLengthOfMessage, headerBits, dataStride] <;> omega
    · rw [decide_eq_false hi, Bool.false_and, Bool.false_and]

/-- The copy of a message's byte view: the bytes of the message, then zeros (R146, R149). -/
theorem read_ofBytes_byteView (m : Memory) (a : Nat) :
    (Memory.ofBytes (byteView m)).read a =
      if a < byteLengthOfMessage (dataLength m) then m.read a else 0 := by
  rw [read_ofBytes]
  by_cases ha : a < byteLengthOfMessage (dataLength m)
  · rw [if_pos ha, unwritten, byteView, bytes_getD _ _ _ _ ha, Nat.zero_add]
  · rw [if_neg ha, List.getD_eq_default _ _ (by rw [byteView_length]; omega)]
    rfl

/-- The byte view holds every bit of the message. -/
theorem msgBit_ofBytes_byteView (m : Memory) (i : Nat) (hi : i < bitLengthOfMessage (dataLength m)) :
    msgBit (Memory.ofBytes (byteView m)) i = msgBit m i := by
  have ha : i / 8 < byteLengthOfMessage (dataLength m) := by
    simp only [byteLengthOfMessage, ceilDiv8]
    omega
  rw [msgBit, read_ofBytes_byteView, if_pos ha, msgBit]

/-- A message without bits past its declared length is the copy of its byte view. -/
theorem ofBytes_byteView (m : Memory) (h : EndsBy (bitLengthOfMessage (dataLength m)) m) :
    Memory.ofBytes (byteView m) = m := by
  refine eq_of_msgBit_eq _ _ (ofBytes_wf _) h.1 fun i => ?_
  by_cases hi : i < bitLengthOfMessage (dataLength m)
  · exact msgBit_ofBytes_byteView m i hi
  · rw [msgBit, read_ofBytes_byteView, h.2 i (by omega)]
    split
    · exact h.2 i (by omega)
    · exact BitVec.getLsbD_zero

/-- The byte view of a message passes the checks of DECODE_BYTES (R146, R149). -/
theorem decodable_byteView (m : Memory) (h : dataLength m ≤ 64) : Decodable (byteView m) := by
  obtain ⟨hlength, -⟩ := findings_congr (msgBit_ofBytes_byteView m)
  rw [Decodable, byteView_length, hlength]
  simp only [byteLengthOfMessage, bitLengthOfMessage, headerBits, dataStride, ceilDiv8]
  omega

/-- DECODE_BYTES of the byte view gives back the findings of the message. -/
theorem exec_decodeBytes_byteView (m : Memory) (h : dataLength m ≤ 64) (r : State) :
    exec (.decodeBytes (byteView m)) r =
      .next (judgedWith (findings m) (r.commitMessage (Memory.ofBytes (byteView m)))) := by
  obtain ⟨-, hfindings⟩ := findings_congr (msgBit_ofBytes_byteView m)
  rw [(decodable_byteView m h).exec_eq, hfindings]

/-- AS_BYTES of a held message delivers its byte view (R149). -/
theorem exec_asBytes {s : State} (h : s.msgValid = true) :
    exec .asBytes s = .next (completedWith (countResult (byteView s.msg).length) 0 (byteView s.msg) s) := by
  rw [exec, execAsBytes, withMessage_valid s _ h]
  exact finish_ok _ _ _ _

/-- A decoded message is the copy of its byte view when IN ends where the message does (R154). -/
theorem ofBytes_byteView_ofBytes (inp : List Byte)
    (h : inp.length = byteLengthOfMessage (dataLength (Memory.ofBytes inp))) :
    Memory.ofBytes (byteView (Memory.ofBytes inp)) = Memory.ofBytes inp := by
  refine wf_ext _ _ (ofBytes_wf _) (ofBytes_wf _) fun a => ?_
  rw [read_ofBytes_byteView, ← h]
  split
  · rfl
  · next ha => rw [read_ofBytes, List.getD_eq_default _ _ (Nat.not_lt.1 ha), unwritten]

/-- Settles O39: an encoded message is the copy of its byte view; of a decoded one the copy holds the bytes
that the declared length needs. -/
theorem asBytesThenDecodeReproducesMessage : Obligations.AsBytesThenDecodeReproducesMessage := by
  intro i s₀ s hexec hstatus
  refine ⟨fun hi => ?_, ?_⟩
  · obtain ⟨hvalid, f, hf, hmsg⟩ := encodePath_completes hi hexec hstatus
    obtain ⟨-, -, hmax⟩ : MessageOk s.msg := hmsg ▸ messageOk_encodeFields f hf.data
    have hcopy : Memory.ofBytes (byteView s.msg) = s.msg := by
      rw [hmsg]
      exact ofBytes_byteView _ (dataLength_encodeFields f hf.data ▸ endsBy_encodeFields f)
    have hfindings : findings s.msg = 0 := by rw [hmsg, hf.findings_encodeFields]
    refine ⟨_, exec_asBytes hvalid, hfindings, fun r => ?_⟩
    calc exec (.decodeBytes (byteView s.msg)) r
        = .next (judgedWith (findings s.msg) (r.commitMessage (Memory.ofBytes (byteView s.msg)))) :=
          exec_decodeBytes_byteView _ hmax r
      _ = .next (judgedWith 0 { r with msg := s.msg, msgValid := true }) := by rw [hfindings, hcopy]; rfl
  · rintro inp rfl
    obtain ⟨hd, hvalid, hmsg⟩ := decodeBytes_completes hexec hstatus
    obtain ⟨-, -, hmax⟩ : MessageOk s.msg := hmsg ▸ hd.messageOk
    refine ⟨_, Memory.ofBytes (byteView s.msg), exec_asBytes hvalid,
      exec_decodeBytes_byteView s.msg hmax, fun a => ?_, fun hlength => ?_⟩
    · rw [read_ofBytes_byteView, hmsg, read_ofBytes]
      rfl
    · rw [hmsg] at hlength ⊢
      exact ofBytes_byteView_ofBytes inp hlength

end Sys2Proof.Machine
end

section
/-! The line signal of a message, sample by sample, and ENCODE_SIGNAL (R197 to R203). -/
namespace Sys2Proof.Machine

open Sys2Proof.Claims

/-! The line signal. -/

theorem getElem?_high {n x : Nat} (h : x < n) : (high n)[x]? = some .high := by
  rw [high, List.getElem?_replicate_of_lt h]

theorem getElem?_low {n x : Nat} (h : x < n) : (low n)[x]? = some .low := by
  rw [low, List.getElem?_replicate_of_lt h]

/-- The line code is LOW, for longer when the bit is 0, then HIGH (R198). -/
theorem lineCode_eq (b : Bool) :
    lineCode b = low (if b then 20 else 33) ++ high (if b then 21 else 8) := by
  cases b <;> rfl

theorem getElem?_lineCode (b : Bool) {j : Nat} (h : j < 41) :
    (lineCode b)[j]? = some (if j < (if b then 20 else 33) then .low else .high) := by
  rw [lineCode_eq, List.getElem?_append, low_length]
  by_cases hlow : j < if b then 20 else 33
  · rw [if_pos hlow, if_pos hlow, getElem?_low hlow]
  · rw [if_neg hlow, if_neg hlow, getElem?_high (by split at hlow <;> split <;> omega)]

/-- Sample `x` of coded bits is sample `x % 41` of the code of bit `x / 41` (R198, R199). -/
theorem getElem?_flatMap_lineCode (bits : List Bool) (x : Nat) :
    (bits.flatMap lineCode)[x]? = bits[x / 41]?.bind fun b => (lineCode b)[x % 41]? := by
  induction bits generalizing x with
  | nil => rfl
  | cons b bits ih =>
    rw [List.flatMap_cons, List.getElem?_append, lineCode_length]
    by_cases hx : x < 41
    · rw [if_pos hx, Nat.div_eq_of_lt hx, Nat.mod_eq_of_lt hx]
      rfl
    · obtain ⟨y, rfl⟩ : ∃ y, x = y + 41 := ⟨x - 41, by omega⟩
      rw [if_neg hx, Nat.add_sub_cancel, ih, Nat.add_div_right y (by decide), Nat.add_mod_right,
        List.getElem?_cons_succ]

theorem flatMap_lineCode_length (bits : List Bool) : (bits.flatMap lineCode).length = 41 * bits.length := by
  simp [List.length_flatMap, Nat.mul_comm]

/-- The length of a line signal (R200). -/
theorem encodeLine_length (m : Memory) :
    (encodeLine m).length = 278 + 41 * (44 + 10 * dataLength m) := by
  simp only [encodeLine, List.length_append, high_length, low_length, flatMap_lineCode_length,
    messageBits_length, bitLengthOfMessage, headerBits, dataStride, tStartBit, tBit1, tTxWait]
  omega

theorem getElem?_messageBits (m : Memory) {i : Nat} (h : i < 44 + 10 * dataLength m) :
    (messageBits m)[i]? = some (msgBit m i) := by
  have hi : i < bitLengthOfMessage (dataLength m) := h
  rw [messageBits, List.getElem?_map, List.getElem?_range hi, Option.map_some]

/-- Settles O41: the four parts of the signal in turn; in the third, a sample is one of a line code. -/
theorem lineSignalBySample : Obligations.LineSignalBySample := by
  intro m
  refine ⟨encodeLine_length m, fun x hx => ?_⟩
  have hbits : ((messageBits m).flatMap lineCode).length = 41 * (44 + 10 * dataLength m) := by
    rw [flatMap_lineCode_length, messageBits_length]
    rfl
  rw [lineSample, encodeLine, List.append_assoc, List.append_assoc, List.getElem?_append, high_length,
    tStartBit]
  by_cases hstart : x < 170
  · rw [if_pos hstart, if_pos hstart, getElem?_high hstart]
  rw [if_neg hstart, if_neg hstart, List.getElem?_append, low_length, tBit1]
  by_cases hsync : x < 190
  · rw [if_pos hsync, if_pos (by omega), getElem?_low (by omega)]
  rw [if_neg hsync, if_neg (by omega), Nat.sub_sub, List.getElem?_append, hbits]
  by_cases hbit : x < 190 + 41 * (44 + 10 * dataLength m)
  · rw [if_pos hbit, if_pos (by omega), getElem?_flatMap_lineCode, getElem?_messageBits m (by omega),
      Option.bind_some, getElem?_lineCode _ (Nat.mod_lt _ (by decide))]
  · rw [if_neg hbit, if_neg (by omega), getElem?_high (by rw [tTxWait]; omega)]

theorem low_append_low (a b : Nat) : low a ++ low b = low (a + b) := List.replicate_append_replicate

/-- The message bits begin with bit 0: the header alone has 44 (R195). -/
theorem exists_messageBits_eq_cons (m : Memory) : ∃ bits, messageBits m = msgBit m 0 :: bits :=
  List.head?_eq_some_iff.1 (by rw [List.head?_eq_getElem?, getElem?_messageBits m (by omega)])

theorem exists_lineCode_eq (b : Bool) :
    ∃ rest, lineCode b = low (if b then 20 else 33) ++ .high :: rest := by
  cases b <;> exact ⟨_, rfl⟩

/-- Settles O42: the synchronisation's 20 LOW samples run on into those of bit 0. -/
theorem firstLowRunMergesSynchronisation : Obligations.FirstLowRunMergesSynchronisation := by
  intro m
  obtain ⟨bits, hbits⟩ := exists_messageBits_eq_cons m
  obtain ⟨code, hcode⟩ := exists_lineCode_eq (msgBit m 0)
  have hrun : (if msgBit m 0 then 40 else 53) = 20 + if msgBit m 0 then 20 else 33 := by split <;> rfl
  refine ⟨code ++ bits.flatMap lineCode ++ high 88, ?_⟩
  calc encodeLine m
      = high 170 ++ low 20 ++ (lineCode (msgBit m 0) ++ bits.flatMap lineCode) ++ high 88 := by
        rw [encodeLine, hbits, List.flatMap_cons]
        rfl
    _ = high 170 ++ low (if msgBit m 0 then 40 else 53) ++
          .high :: (code ++ bits.flatMap lineCode ++ high 88) := by
        rw [hcode, hrun, ← low_append_low]
        simp only [List.append_assoc, List.cons_append]

/-! ENCODE_SIGNAL. -/

theorem countResult_encodeLine (m : Memory) :
    countResult (encodeLine m).length = BitVec.ofNat 32 (encodeLine m).length := by
  have hlen := dataLength_lt m
  exact countResult_of_lt _ (by rw [encodeLine_length]; omega)

/-- Settles O43: with a message ENCODE_SIGNAL delivers its line signal. -/
theorem encodeSignalByRule : Obligations.EncodeSignalByRule := by
  intro s n hn
  rw [← dataLength_eq_bitsValue, ← encodeLine_length] at hn
  subst hn
  rw [exec, execEncodeSignal]
  refine withMessage_answer s _ _ fun _ => ?_
  rw [deliverSamples_eq, countResult_encodeLine]
  rfl

/-- The packed signal of a message of at most 64 data bytes (R200, R226). -/
theorem pack_encodeLine_length_le {m : Memory} (h : dataLength m ≤ 64) :
    (pack (encodeLine m)).length ≤ 3541 := by
  rw [pack_length, encodeLine_length, ceilDiv8]
  omega

/-- Settles O44: the packed signal fits the smallest OUT_CAP that R9 allows. -/
theorem encodeSignalNeverFails : Obligations.EncodeSignalNeverFails := by
  intro s ⟨_, _, hcap, _⟩ hvalid hlen
  have hsize := pack_encodeLine_length_le hlen
  have hfits : ¬ s.params.outCap < ceilDiv8 (encodeLine s.msg).length := by
    rw [← pack_length]
    omega
  refine ⟨completedWith (countResult (encodeLine s.msg).length) 0 (pack (encodeLine s.msg)) s,
    ?_, rfl, hsize⟩
  rw [exec, execEncodeSignal, withMessage_valid s _ hvalid, deliverSamples_eq, if_neg hfits]

end Sys2Proof.Machine
end

section
/-! Placing a batch and COMPOSE (R213 to R217, R224), and intervals of at least 28322 samples (R276). -/
namespace Sys2Proof.Machine

open Sys2Proof.Claims

/-! The placed signals. -/

theorem getElem?_placeRegular (interval i : Nat) (b : List BatchEntry) (k : Nat) :
    (placeRegular interval i b)[k]? = b[k]?.map fun e => ⟨(i + k) * interval, encodeLine e.msg⟩ := by
  induction b generalizing i k with
  | nil => rfl
  | cons e b ih =>
    cases k with
    | zero => rfl
    | succ k =>
      rw [placeRegular, List.getElem?_cons_succ, List.getElem?_cons_succ, ih, Nat.add_assoc, Nat.add_comm 1]

/-- Entry `k` is placed at `off_k` (R214, R215). -/
theorem placements_eq (r : Word32) {b : List BatchEntry} {first : BatchEntry} (h : b[0]? = some first) :
    placements r first.ts b = b.mapIdx fun k e => ⟨offsetOf r b k, encodeLine e.msg⟩ := by
  refine List.ext_getElem? fun k => ?_
  rw [List.getElem?_mapIdx]
  by_cases hr : r = 0
  · rw [placements, if_pos hr, placeCapture, List.getElem?_map]
    cases hk : b[k]? with
    | none => rfl
    | some e => simp only [offsetOf, if_pos hr, h, hk, Option.map_some, Option.getD_some]
  · rw [placements, if_neg hr, getElem?_placeRegular, Nat.zero_add, offsetOf, if_neg hr]

/-- A placed signal ends at `off_k + len_k` (R213, R217). -/
theorem placedEnd_eq (r : Word32) {b : List BatchEntry} {k : Nat} {e : BatchEntry} (h : b[k]? = some e) :
    placedEnd ⟨offsetOf r b k, encodeLine e.msg⟩ = offsetOf r b k + signalLength b k := by
  rw [placedEnd, encodeLine_length, signalLength, h]
  rfl

/-- The timeline has `total` samples (R216). -/
theorem timelineLength_placements (r : Word32) {b : List BatchEntry} {first : BatchEntry}
    (h : b[0]? = some first) : timelineLength r (placements r first.ts b) = totalOf r b := by
  rw [timelineLength, totalOf, placements_eq r h, List.length_mapIdx, List.getLast?_mapIdx,
    List.getLast?_eq_getElem?]
  obtain ⟨hpos, -⟩ := List.getElem?_eq_some_iff.1 h
  have hlast := List.getElem?_eq_getElem (Nat.sub_one_lt_of_lt hpos)
  rw [hlast, ← placedEnd_eq r hlast]
  rfl

/-- When every signal fits COMPOSE finds no overrun (R217). -/
theorem any_overrun_eq_false {r : Word32} {b : List BatchEntry} {first : BatchEntry}
    (h : b[0]? = some first) (hfits : NoOverrun r b) :
    (placements r first.ts b).any (fun p => totalOf r b < placedEnd p) = false := by
  rw [List.any_eq_false, placements_eq r h]
  intro p hp
  obtain ⟨k, hk, rfl⟩ := List.mem_mapIdx.1 hp
  have hend := hfits k hk
  rw [placedEnd_eq r (List.getElem?_eq_getElem hk)]
  simpa using hend

/-- In an ordered batch COMPOSE finds no timestamp below the first (R214). -/
theorem not_any_below_first {r : Word32} {b : List BatchEntry} {first : BatchEntry}
    (h : b[0]? = some first) (hord : Ordered r b) :
    ¬ (r = 0 ∧ b.any (fun e => e.ts.toNat < first.ts.toNat) = true) := by
  rintro ⟨hr, hany⟩
  obtain ⟨e, he, hbelow⟩ := List.any_eq_true.1 hany
  have hle := hord hr e he
  rw [h] at hle
  exact absurd hle (Nat.not_le.2 (of_decide_eq_true hbelow))

/-- COMPOSE of an ordered batch whose signals fit delivers the framed timeline or raises CapacityError
(R224). -/
theorem exec_compose_of_fits {r : Word32} (g : Word32) {s : State} {first : BatchEntry}
    {rest : List BatchEntry} (hbatch : s.batch = first :: rest) (hord : Ordered r s.batch)
    (hfits : NoOverrun r s.batch) {u : List Sample}
    (hu : u = trim (composeTimeline (totalOf r s.batch) (placements r first.ts s.batch))) :
    exec (.compose r g) s = .next (
      if s.params.outCap < ceilDiv8 (framedLength g.toNat u) then abortedWith 10 s
      else completedWith (countResult (framedLength g.toNat u)) (countResult u.length)
        (pack (frameSamples g.toNat u)) s) := by
  have hfirst : s.batch[0]? = some first := by rw [hbatch]; rfl
  have hts := not_any_below_first hfirst hord
  have hover := any_overrun_eq_false hfirst hfits
  have htotal := timelineLength_placements r hfirst
  rw [hbatch] at hts hover htotal hu
  rw [exec, execCompose, hbatch, apply_ite Host.Outcome.next]
  simp only [if_neg hts, htotal, hover, Bool.false_eq_true, if_false, ← hu, finish_ok, raise_eq, errorIndex]

/-! A long interval. -/

/-- The longest line signal (R200). -/
theorem signalLength_le {b : List BatchEntry} (h : ∀ e ∈ b, dataLength e.msg ≤ 64) (i : Nat) :
    signalLength b i ≤ 28322 := by
  rw [signalLength]
  cases hi : b[i]? with
  | none => decide
  | some e =>
    have hlen := h e (List.mem_of_getElem? hi)
    rw [Option.map_some, Option.getD_some]
    omega

/-- In regular mode a signal of at most `R` samples ends where the next entry's place begins, or before
(R215). -/
theorem offsetOf_add_signalLength_le {r : Word32} {b : List BatchEntry} {i j : Nat} (hr : r ≠ 0)
    (hlen : signalLength b i ≤ r.toNat) (hij : i < j) :
    offsetOf r b i + signalLength b i ≤ j * r.toNat :=
  calc offsetOf r b i + signalLength b i
      ≤ i * r.toNat + r.toNat := by rw [offsetOf, if_neg hr]; exact Nat.add_le_add_left hlen _
    _ = (i + 1) * r.toNat := (Nat.succ_mul _ _).symm
    _ ≤ j * r.toNat := Nat.mul_le_mul_right _ hij

/-- Settles O57: no signal is longer than the interval, so each ends before the next place and before the
end of the timeline. -/
theorem longIntervalNeverOverlaps : Obligations.LongIntervalNeverOverlaps := by
  intro r g s hr hlen hne
  have hr0 : r ≠ 0 := by
    rintro rfl
    exact absurd hr (by decide)
  have hends {i j : Nat} (hij : i < j) :
      offsetOf r s.batch i + signalLength s.batch i ≤ j * r.toNat :=
    offsetOf_add_signalLength_le hr0 ((signalLength_le hlen i).trans hr) hij
  refine ⟨fun i j hij _ => ?_, ?_⟩
  · have hoff : offsetOf r s.batch j = j * r.toNat := if_neg hr0
    exact hoff ▸ hends hij
  · have hord : Ordered r s.batch := fun h => absurd h hr0
    have hfits : NoOverrun r s.batch := fun i hi => by
      rw [totalOf, if_neg hr0]
      exact hends hi
    obtain ⟨first, rest, hbatch⟩ := List.exists_cons_of_ne_nil hne
    refine ⟨_, exec_compose_of_fits g hbatch hord hfits rfl, ?_⟩
    split <;> simp [abortedWith, completedWith]

end Sys2Proof.Machine
end

section
/-! Packing and unpacking of samples, and PACK_SAMPLES (R226 to R229). -/
namespace Sys2Proof.Machine

open Sys2Proof.Claims

/-! One byte. -/

/-- A bit of a byte built by or-ing one term per element is set when a term sets it. -/
theorem getLsbD_foldl_or (f : Nat → Byte) (qs : List Nat) (b : Byte) (k : Nat) :
    (qs.foldl (fun b q => b ||| f q) b).getLsbD k = (b.getLsbD k || qs.any fun q => (f q).getLsbD k) := by
  induction qs generalizing b with
  | nil => simp
  | cons q qs ih => rw [List.foldl_cons, ih, BitVec.getLsbD_or, List.any_cons, Bool.or_assoc]

/-- The term of sample `r` sets bit `7 - r` alone, and only for a HIGH sample. -/
theorem getLsbD_sampleTerm (c : Bool) {q r : Nat} (hq : q < 8) (hr : r < 8) :
    (if c then 1#8 <<< (7 - r) else 0).getLsbD (7 - q) = (c && decide (r = q)) := by
  have hbit : (1#8 <<< (7 - r)).getLsbD (7 - q) = decide (r = q) := by
    rw [Bool.eq_iff_iff, decide_eq_true_iff]
    simp
    omega
  cases c <;> simp [hbit]

/-- Bit `7 - q` of a packed byte is sample `q`, HIGH where there is none (R226). -/
theorem getLsbD_packByte (g : List Sample) {q : Nat} (hq : q < 8) :
    (packByte g).getLsbD (7 - q) = sampleBit (g.getD q .high) := by
  rw [packByte, getLsbD_foldl_or, show BitVec.getLsbD (0 : Byte) (7 - q) = false from BitVec.getLsbD_zero,
    Bool.false_or, Bool.eq_iff_iff, List.any_eq_true]
  constructor
  · rintro ⟨r, hr, hset⟩
    rw [getLsbD_sampleTerm _ hq (List.mem_range.1 hr), Bool.and_eq_true, decide_eq_true_iff] at hset
    exact hset.2 ▸ hset.1
  · intro hhigh
    refine ⟨q, List.mem_range.2 hq, ?_⟩
    rw [getLsbD_sampleTerm _ hq hq, hhigh, decide_eq_true rfl]
    rfl

theorem sampleBit_eq_true_iff (x : Sample) : sampleBit x = true ↔ x ≠ .low := by
  cases x <;> decide

theorem sample_of_sampleBit (x : Sample) : (if sampleBit x then .high else .low) = x := by
  cases x <;> rfl

theorem getElem?_unpackByte (b : Byte) {q : Nat} (hq : q < 8) :
    (unpackByte b)[q]? = some (if b.getLsbD (7 - q) then .high else .low) := by
  rw [unpackByte, List.getElem?_map, List.getElem?_range hq, Option.map_some]

/-- Unpacking a packed byte gives its samples, then the padding (R227). -/
theorem unpackByte_packByte {g : List Sample} (hg : g.length ≤ 8) :
    unpackByte (packByte g) = g ++ high (8 - g.length) := by
  refine List.ext_getElem? fun q => ?_
  by_cases hq : q < 8
  · rw [getElem?_unpackByte _ hq, getLsbD_packByte g hq, sample_of_sampleBit, List.getElem?_append]
    by_cases hin : q < g.length
    · rw [if_pos hin, List.getD_eq_getElem?_getD, List.getElem?_eq_getElem hin, Option.getD_some]
    · rw [if_neg hin, getElem?_high (by omega), List.getD_eq_default _ _ (Nat.not_lt.1 hin)]
  · rw [List.getElem?_eq_none (by rw [unpackByte_length]; omega),
      List.getElem?_eq_none (by rw [List.length_append, high_length]; omega)]

/-! A sample sequence. -/

theorem high_append_high (a b : Nat) : high a ++ high b = high (a + b) := List.replicate_append_replicate

/-- Byte `j` packs the samples from `8j` on (R226). -/
theorem getElem?_packGroups (n : Nat) (x : List Sample) {j : Nat} (hj : j < n) :
    (packGroups n x)[j]? = some (packByte ((x.drop (8 * j)).take 8)) := by
  induction n generalizing x j with
  | zero => exact absurd hj (Nat.not_lt_zero j)
  | succ n ih =>
    cases j with
    | zero => rfl
    | succ j =>
      rw [packGroups, List.getElem?_cons_succ, ih _ (Nat.lt_of_succ_lt_succ hj), List.drop_drop,
        show 8 + 8 * j = 8 * (j + 1) by omega]

theorem getD_take_drop (x : List Sample) (k : Nat) {q : Nat} (hq : q < 8) :
    ((x.drop k).take 8).getD q .high = x.getD (k + q) .high := by
  simp [List.getD_eq_getElem?_getD, List.getElem?_take_of_lt hq]

theorem getD_high_ne_low_iff (x : List Sample) (k : Nat) :
    x.getD k .high ≠ .low ↔ x[k]? ≠ some .low := by
  rw [List.getD_eq_getElem?_getD]
  cases x[k]? <;> simp

/-- Settles O45: byte `j` is the packed group of the samples from `8j` on. -/
theorem packPutsFirstSampleInBitSeven : Obligations.PackPutsFirstSampleInBitSeven := by
  intro x
  refine ⟨pack_length x, fun j q b hq hb => ?_⟩
  obtain ⟨hj, -⟩ := List.getElem?_eq_some_iff.1 hb
  rw [pack, getElem?_packGroups _ x (by rwa [pack_length] at hj), Option.some.injEq] at hb
  rw [← hb, getLsbD_packByte _ hq, getD_take_drop x _ hq, sampleBit_eq_true_iff, getD_high_ne_low_iff]

theorem unpack_cons (b : Byte) (bytes : List Byte) : unpack (b :: bytes) = unpackByte b ++ unpack bytes :=
  List.flatMap_cons

/-- Unpacking enough packed groups gives the samples, then the padding (R227). -/
theorem unpack_packGroups (n : Nat) {x : List Sample} (hx : x.length ≤ 8 * n) :
    unpack (packGroups n x) = x ++ high (8 * n - x.length) := by
  induction n generalizing x with
  | zero =>
    obtain rfl := List.length_eq_zero_iff.1 (Nat.le_zero.1 hx)
    rfl
  | succ n ih =>
    have hrest : (x.drop 8).length ≤ 8 * n := by rw [List.length_drop]; omega
    rw [packGroups, unpack_cons, unpackByte_packByte (List.length_take_le 8 x), ih hrest,
      List.length_take, List.length_drop]
    by_cases hlong : 8 ≤ x.length
    · rw [Nat.min_eq_left hlong, Nat.sub_self, show high 0 = [] from rfl, List.append_nil,
        ← List.append_assoc, List.take_append_drop,
        show 8 * n - (x.length - 8) = 8 * (n + 1) - x.length by omega]
    · rw [Nat.min_eq_right (by omega), List.take_of_length_le (by omega), List.drop_of_length_le (by omega),
        List.nil_append, List.append_assoc, high_append_high,
        show 8 - x.length + (8 * n - (x.length - 8)) = 8 * (n + 1) - x.length by omega]

/-- Settles O46: the packed groups are as many as the samples need. -/
theorem unpackUndoesPack : Obligations.UnpackUndoesPack := fun x =>
  unpack_packGroups (ceilDiv8 x.length) (by rw [ceilDiv8]; omega)

/-- A packed byte over no LOW sample is 0xFF (R226). -/
theorem pack_byte_of_no_low {x : List Sample} {j : Nat} {b : Byte} (hb : (pack x)[j]? = some b)
    (h : ∀ k, 8 * j ≤ k → k < 8 * j + 8 → x[k]? ≠ some .low) : b = 0xFF := by
  obtain ⟨-, hbits⟩ := packPutsFirstSampleInBitSeven x
  refine BitVec.eq_of_getLsbD_eq fun i hi => ?_
  have hset := (hbits j (7 - i) b (by omega) hb).2 (h _ (by omega) (by omega))
  rw [show 7 - (7 - i) = i by omega] at hset
  rw [hset, show (0xFF : Byte) = BitVec.allOnes 8 from rfl, BitVec.getLsbD_allOnes, decide_eq_true hi]

/-! PACK_SAMPLES. -/

/-- A byte of a sample string is refused, LOW or HIGH (R102). -/
theorem sample?_eq (c : Byte) :
    sample? c = if c ≠ 0x30 ∧ c ≠ 0x31 then none else some (if c = 0x30 then .low else .high) := by
  rw [sample?]
  by_cases h0 : c = 0x30
  · rw [h0]
    rfl
  · by_cases h1 : c = 0x31
    · rw [h1]
      rfl
    · rw [if_neg h0, if_neg h1, if_pos ⟨h0, h1⟩]

/-- The operand of PACK_SAMPLES: FormatError when some byte is refused, else its samples (R228). -/
theorem parseSamples_eq (inp : List Byte) :
    parseSamples inp = if ∃ c ∈ inp, c ≠ 0x30 ∧ c ≠ 0x31 then .error .formatError
      else .ok (inp.map fun c => if c = 0x30 then .low else .high) := by
  induction inp with
  | nil => rfl
  | cons c inp ih =>
    rw [parseSamples, ih, sample?_eq]
    simp only [List.exists_mem_cons_iff]
    by_cases hc : c ≠ 0x30 ∧ c ≠ 0x31
    · rw [if_pos hc, if_pos (Or.inl hc)]
    · rw [if_neg hc]
      by_cases hrest : ∃ d ∈ inp, d ≠ 0x30 ∧ d ≠ 0x31
      · rw [if_pos hrest, if_pos (Or.inr hrest)]
      · rw [if_neg hrest, if_neg (not_or.2 ⟨hc, hrest⟩)]
        rfl

/-- Under R9 a sample count whose packed form fits OUT fits a result register. -/
theorem countResult_of_fits {p : Params} (hp : p.Legal) {n : Nat} (hn : ¬ p.outCap < (n + 7) / 8) :
    n < 2 ^ 32 ∧ countResult n = BitVec.ofNat 32 n := by
  obtain ⟨-, -, -, hcap⟩ := hp
  have hlt : n < 2 ^ 32 := by omega
  exact ⟨hlt, countResult_of_lt n hlt⟩

theorem toNat_countResult_of_fits {p : Params} (hp : p.Legal) {n : Nat} (hn : ¬ p.outCap < (n + 7) / 8) :
    (countResult n).toNat = n := by
  obtain ⟨hlt, hcount⟩ := countResult_of_fits hp hn
  rw [hcount, BitVec.toNat_ofNat, Nat.mod_eq_of_lt hlt]

/-- Settles O47: the operand is refused, or its samples are delivered. -/
theorem packSamplesByRule : Obligations.PackSamplesByRule := by
  intro inp s hp
  rw [exec, execPackSamples, parseSamples_eq]
  by_cases hbad : ∃ c ∈ inp, c ≠ 0x30 ∧ c ≠ 0x31
  · simp only [if_pos hbad, raise_eq]
    rfl
  · simp only [if_neg hbad, deliverSamples_eq, List.length_map, ceilDiv8]
    by_cases hcap : s.params.outCap < (inp.length + 7) / 8
    · rw [if_pos hcap, if_pos hcap]
    · obtain ⟨-, hcount⟩ := countResult_of_fits hp hcap
      rw [if_neg hcap, if_neg hcap, hcount]

end Sys2Proof.Machine
end

section
/-! The batch: BATCH_CLEAR and BATCH_APPEND (R210, R211). -/
namespace Sys2Proof.Machine

open Sys2Proof.Claims

/-- Settles O48: BATCH_CLEAR ends OK on the state with an empty batch. -/
theorem batchClearByRule : Obligations.BatchClearByRule := fun s => finish_ok 0 0 [] (s.setBatch [])

/-- Settles O49: RES0 is the count, whose value is known below 2^32. -/
theorem batchAppendByRule : Obligations.BatchAppendByRule := by
  intro ts s
  refine ⟨countResult (s.batch.length + 1), fun hlt => ?_, ?_⟩
  · rw [countResult_of_lt _ hlt, BitVec.toNat_ofNat, Nat.mod_eq_of_lt hlt]
  · rw [exec, execBatchAppend]
    refine withMessage_answer s _ _ fun _ => ?_
    rw [apply_ite Host.Outcome.next]
    simp only [finish_ok, raise_eq, errorIndex, List.length_append, List.length_singleton]
    rfl

end Sys2Proof.Machine
end

section
/-! Trimming the idle ends of a timeline (R220). -/
namespace Sys2Proof.Machine

open Sys2Proof.Claims

/-- A sequence with a LOW sample is idle up to its first one. -/
theorem exists_eq_high_append_low {t : List Sample} (h : .low ∈ t) :
    ∃ a rest, t = high a ++ .low :: rest := by
  induction t with
  | nil => exact absurd h List.not_mem_nil
  | cons x t ih =>
    cases x with
    | low => exact ⟨0, t, rfl⟩
    | high =>
      obtain ⟨a, rest, rfl⟩ := ih ((List.mem_cons.1 h).resolve_left nofun)
      exact ⟨a + 1, rest, rfl⟩

theorem stripIdle_high_append_low (a : Nat) (rest : List Sample) :
    stripIdle (high a ++ .low :: rest) = .low :: rest := by
  rw [stripIdle, List.dropWhile_append_of_pos]
  · rfl
  · intro x hx
    rw [List.eq_of_mem_replicate hx]
    rfl

/-- Stripping the idle front of a sequence that then begins with LOW. -/
theorem stripIdle_high_append (a : Nat) {x : List Sample} (hx : x.head? = some .low) :
    stripIdle (high a ++ x) = x := by
  obtain ⟨rest, rfl⟩ := List.head?_eq_some_iff.1 hx
  exact stripIdle_high_append_low a rest

theorem high_reverse (n : Nat) : (high n).reverse = high n := List.reverse_replicate

/-- There is one trimmed form, and `trim` computes it (R220). -/
theorem trim_eq_of_isTrimmed {t u : List Sample} (h : IsTrimmed t u) : trim t = u := by
  obtain ⟨⟨a, b, rfl⟩, hhead, hlast⟩ := h
  have hfront : (u ++ high b).head? = some .low := by rw [List.head?_append, hhead]; rfl
  have hback : u.reverse.head? = some .low := by rw [List.head?_reverse, hlast]
  rw [trim, List.append_assoc, stripIdle_high_append a hfront, List.reverse_append, high_reverse,
    stripIdle_high_append b hback, List.reverse_reverse]

/-- A sequence with a LOW sample has a trimmed form: what lies between its first and its last LOW. -/
theorem exists_isTrimmed {t : List Sample} (h : .low ∈ t) : ∃ u, IsTrimmed t u := by
  obtain ⟨a, rest, rfl⟩ := exists_eq_high_append_low h
  have hmem : Sample.low ∈ (Sample.low :: rest).reverse := by simp
  obtain ⟨b, front, hback⟩ := exists_eq_high_append_low hmem
  have hrest : .low :: rest = (front.reverse ++ [.low]) ++ high b := by
    rw [← List.reverse_reverse (.low :: rest), hback, List.reverse_append, List.reverse_cons, high_reverse]
  refine ⟨front.reverse ++ [.low], ⟨a, b, by rw [hrest, ← List.append_assoc]⟩, ?_,
    List.getLast?_concat⟩
  cases hcase : front.reverse with
  | nil => rfl
  | cons x front =>
    rw [hcase, List.cons_append, List.cons_append, List.cons.injEq] at hrest
    rw [← hrest.1]
    rfl

theorem isTrimmed_trim {t : List Sample} (h : .low ∈ t) : IsTrimmed t (trim t) := by
  obtain ⟨u, hu⟩ := exists_isTrimmed h
  exact (trim_eq_of_isTrimmed hu).symm ▸ hu

end Sys2Proof.Machine
end

section
/-! The timeline of a batch, sample by sample (R213 to R219). -/
namespace Sys2Proof.Machine

open Sys2Proof.Claims

/-! Overwriting. -/

/-- A sample after an overwrite: the signal's where the signal covers it, else as before (R218). -/
theorem getElem?_overwrite {t : List Sample} {p : Placed} (h : placedEnd p ≤ t.length) (x : Nat) :
    (overwrite t p)[x]? = if p.off ≤ x ∧ x < placedEnd p then p.sig[x - p.off]? else t[x]? := by
  rw [placedEnd] at h
  have hfront : (t.take p.off).length = p.off := by rw [List.length_take]; omega
  rw [overwrite, placedEnd, List.append_assoc, List.getElem?_append, hfront]
  by_cases hbefore : x < p.off
  · rw [if_pos hbefore, if_neg (by omega), List.getElem?_take_of_lt hbefore]
  rw [if_neg hbefore, List.getElem?_append]
  by_cases hin : x < p.off + p.sig.length
  · rw [if_pos (by omega), if_pos (by omega)]
  · rw [if_neg (by omega), if_neg (by omega), List.getElem?_drop,
      show p.off + p.sig.length + (x - p.off - p.sig.length) = x by omega]

/-- A sample no signal covers stays as it was (R218). -/
theorem getElem?_foldl_overwrite_uncovered (ps : List Placed) {t : List Sample}
    (hends : ∀ p ∈ ps, placedEnd p ≤ t.length) {x : Nat}
    (hx : ∀ p ∈ ps, ¬ (p.off ≤ x ∧ x < placedEnd p)) : (ps.foldl overwrite t)[x]? = t[x]? := by
  induction ps generalizing t with
  | nil => rfl
  | cons p ps ih =>
    rw [List.forall_mem_cons] at hends hx
    rw [List.foldl_cons, ih (by rw [overwrite_length t p hends.1]; exact hends.2) hx.2,
      getElem?_overwrite hends.1, if_neg hx.1]

/-- A covered sample is that of the last signal that covers it (R219). -/
theorem getElem?_foldl_overwrite_covered (before : List Placed) (p : Placed) (after : List Placed)
    {t : List Sample} (hends : ∀ q ∈ before ++ p :: after, placedEnd q ≤ t.length) {x : Nat}
    (hp : p.off ≤ x ∧ x < placedEnd p) (hx : ∀ q ∈ after, ¬ (q.off ≤ x ∧ x < placedEnd q)) :
    ((before ++ p :: after).foldl overwrite t)[x]? = p.sig[x - p.off]? := by
  simp only [List.forall_mem_append, List.forall_mem_cons] at hends
  obtain ⟨hbefore, hend, hafter⟩ := hends
  have hlen := foldl_overwrite_length before t hbefore
  have hlen' := overwrite_length _ p (hlen.symm ▸ hend)
  rw [List.foldl_append, List.foldl_cons,
    getElem?_foldl_overwrite_uncovered after (by rw [hlen', hlen]; exact hafter) hx,
    getElem?_overwrite (hlen.symm ▸ hend), if_pos hp]

/-- Every sample of the last signal is on the timeline. -/
theorem mem_foldl_overwrite_of_last {ps : List Placed} {p : Placed} (h : ps.getLast? = some p)
    (t : List Sample) {x : Sample} (hx : x ∈ p.sig) : x ∈ ps.foldl overwrite t := by
  obtain ⟨front, rfl⟩ := List.getLast?_eq_some_iff.1 h
  simp [overwrite, hx]

/-! The placed batch. -/

/-- The signals of a batch at their offsets (R213 to R215). -/
def placedBatch (r : Word32) (b : List BatchEntry) : List Placed :=
  b.mapIdx fun k e => ⟨offsetOf r b k, encodeLine e.msg⟩

/-- The timeline of a batch without its idle ends (R216 to R220). -/
def trimmedTimeline (r : Word32) (b : List BatchEntry) : List Sample :=
  trim (composeTimeline (totalOf r b) (placedBatch r b))

/-- In regular mode the place of an entry does not depend on the timestamps (R215). -/
theorem placements_regular {r : Word32} (hr : r ≠ 0) (ts : Word32) (b : List BatchEntry) :
    placements r ts b = placedBatch r b := by
  refine List.ext_getElem? fun k => ?_
  rw [placements, if_neg hr, getElem?_placeRegular, placedBatch, List.getElem?_mapIdx, Nat.zero_add,
    offsetOf, if_neg hr]

theorem placedBatch_end_le {r : Word32} {b : List BatchEntry} (hfits : NoOverrun r b) :
    ∀ p ∈ placedBatch r b, placedEnd p ≤ (high (totalOf r b)).length := by
  intro p hp
  obtain ⟨k, hk, rfl⟩ := List.mem_mapIdx.1 hp
  rw [placedEnd_eq r (List.getElem?_eq_getElem hk), high_length]
  exact hfits k hk

theorem composeTimeline_length {r : Word32} {b : List BatchEntry} (hfits : NoOverrun r b) :
    (composeTimeline (totalOf r b) (placedBatch r b)).length = totalOf r b := by
  rw [composeTimeline, foldl_overwrite_length _ _ (placedBatch_end_le hfits), high_length]

/-- A sample lies in a placed signal when the entry covers it. -/
theorem covers_iff (r : Word32) {b : List BatchEntry} {i : Nat} {e : BatchEntry} (h : b[i]? = some e)
    (x : Nat) :
    offsetOf r b i ≤ x ∧ x < placedEnd ⟨offsetOf r b i, encodeLine e.msg⟩ ↔ covers r b i x := by
  rw [placedEnd_eq r h, covers]

/-- A sample of a line signal (R197 to R200). -/
theorem getElem?_encodeLine_of_covers {r : Word32} {b : List BatchEntry} {i x : Nat} {e : BatchEntry}
    (h : b[i]? = some e) (hx : covers r b i x) :
    (encodeLine e.msg)[x - offsetOf r b i]? = some (lineSample e.msg (x - offsetOf r b i)) := by
  obtain ⟨hle, hlt⟩ := (covers_iff r h x).2 hx
  rw [placedEnd] at hlt
  refine (lineSignalBySample e.msg).2 _ ?_
  rw [← encodeLine_length]
  dsimp only at hlt
  omega

/-- The composed timeline is the one R218 and R219 describe. -/
theorem isTimeline_composeTimeline {r : Word32} {b : List BatchEntry} (hfits : NoOverrun r b) :
    IsTimeline r b (composeTimeline (totalOf r b) (placedBatch r b)) := by
  have hends := placedBatch_end_le hfits
  have hlen := composeTimeline_length hfits
  refine ⟨hlen, fun x hx => ⟨fun hidle => ?_, fun i e hi hcov hlast => ?_⟩⟩
  · rw [composeTimeline, getElem?_foldl_overwrite_uncovered _ hends, getElem?_high (hlen ▸ hx)]
    intro p hp
    obtain ⟨k, hk, rfl⟩ := List.mem_mapIdx.1 hp
    exact (covers_iff r (List.getElem?_eq_getElem hk) x).not.2 (hidle k hk)
  · have hplaced : (placedBatch r b)[i]? = some ⟨offsetOf r b i, encodeLine e.msg⟩ := by
      rw [placedBatch, List.getElem?_mapIdx, hi, Option.map_some]
    obtain ⟨hip, hget⟩ := List.getElem?_eq_some_iff.1 hplaced
    have hsplit : (placedBatch r b).take i ++ ⟨offsetOf r b i, encodeLine e.msg⟩ ::
        (placedBatch r b).drop (i + 1) = placedBatch r b := by
      rw [← hget, List.getElem_cons_drop, List.take_append_drop]
    rw [composeTimeline, ← hsplit, getElem?_foldl_overwrite_covered _ _ _ (hsplit.symm ▸ hends)
      ((covers_iff r hi x).2 hcov), getElem?_encodeLine_of_covers hi hcov]
    intro q hq
    obtain ⟨d, hd⟩ := List.mem_iff_getElem?.1 hq
    rw [List.getElem?_drop, placedBatch, List.getElem?_mapIdx, Option.map_eq_some_iff] at hd
    obtain ⟨f, hf, rfl⟩ := hd
    exact (covers_iff r hf x).not.2 (hlast _ (by omega) (List.getElem?_eq_some_iff.1 hf).1)

/-- Every line signal has a LOW sample: the synchronisation (R197). -/
theorem low_mem_encodeLine (m : Memory) : .low ∈ encodeLine m := by
  simp [encodeLine, low, tBit1]

/-- The last signal of a batch is on its timeline whole, so the timeline has a LOW sample. -/
theorem low_mem_composeTimeline (r : Word32) {b : List BatchEntry} (h : b ≠ []) (total : Nat) :
    .low ∈ composeTimeline total (placedBatch r b) := by
  have hlast : (placedBatch r b).getLast? =
      some ⟨offsetOf r b (b.length - 1), encodeLine (b.getLast h).msg⟩ := by
    rw [placedBatch, List.getLast?_mapIdx, List.getLast?_eq_some_getLast h, Option.map_some]
  exact mem_foldl_overwrite_of_last hlast _ (low_mem_encodeLine _)

/-- Settles O52: the trimmed form lies between the first and the last LOW, and the last signal placed keeps
its LOW samples. -/
theorem trimLeavesLowAtBothEnds : Obligations.TrimLeavesLowAtBothEnds := by
  refine ⟨fun t => isTrimmed_trim, fun r b e he _ _ => ?_⟩
  rw [placements_eq r he]
  exact low_mem_composeTimeline r (List.ne_nil_of_mem (List.mem_of_getElem? he)) _

/-- Settles O54: in regular mode the placements are `placedBatch`, whatever the timestamps. -/
theorem regularIntervalPlacesAtMultiples : Obligations.RegularIntervalPlacesAtMultiples := by
  intro r ts b hr
  have hoff (k : Nat) : offsetOf r b k = k * r.toNat := if_neg hr
  have htotal : totalOf r b = b.length * r.toNat := if_neg hr
  rw [placements_regular hr]
  refine ⟨?_, ?_, ?_, fun hfits => ?_⟩
  · refine List.ext_getElem? fun k => ?_
    by_cases hk : k < b.length
    · simp [placedBatch, hoff, hk]
    · simp [placedBatch, hk]
  · refine List.ext_getElem? fun k => ?_
    rw [List.getElem?_map, placedBatch, List.getElem?_mapIdx, List.getElem?_map, Option.map_map]
    rfl
  · rw [timelineLength, if_neg hr, placedBatch, List.length_mapIdx]
  · calc (trim (composeTimeline (b.length * r.toNat) (placedBatch r b))).length
        ≤ (composeTimeline (b.length * r.toNat) (placedBatch r b)).length := trim_length_le _
      _ = b.length * r.toNat := by rw [← htotal, composeTimeline_length hfits]

end Sys2Proof.Machine
end

section
/-! COMPOSE: what it answers in every state, its framed output, and SINGLE (R217 to R232, R279). -/
namespace Sys2Proof.Machine

open Sys2Proof.Claims

/-! The state a command that ends OK leaves. -/

@[simp] theorem completedWith_msgValid (r0 r1 : Word32) (o : List Byte) (s : State) :
    (completedWith r0 r1 o s).msgValid = s.msgValid := rfl
@[simp] theorem completedWith_batch (r0 r1 : Word32) (o : List Byte) (s : State) :
    (completedWith r0 r1 o s).batch = s.batch := rfl
@[simp] theorem completedWith_params (r0 r1 : Word32) (o : List Byte) (s : State) :
    (completedWith r0 r1 o s).params = s.params := rfl
@[simp] theorem completedWith_res0 (r0 r1 : Word32) (o : List Byte) (s : State) :
    (completedWith r0 r1 o s).res0 = r0 := rfl
@[simp] theorem completedWith_res1 (r0 r1 : Word32) (o : List Byte) (s : State) :
    (completedWith r0 r1 o s).res1 = r1 := rfl
@[simp] theorem completedWith_out (r0 r1 : Word32) (o : List Byte) (s : State) :
    (completedWith r0 r1 o s).out = o := rfl

/-! What COMPOSE answers. -/

/-- In a batch that is not ordered COMPOSE finds a timestamp below the first (R214). -/
theorem any_below_first_of_not_ordered {r : Word32} {b : List BatchEntry} {first : BatchEntry}
    (h : b[0]? = some first) (hord : ¬ Ordered r b) :
    r = 0 ∧ b.any (fun e => e.ts.toNat < first.ts.toNat) = true := by
  simp only [Ordered, h, Classical.not_forall, Option.map_some, Option.getD_some] at hord
  obtain ⟨hr, e, he, hbelow⟩ := hord
  exact ⟨hr, List.any_eq_true.2 ⟨e, he, decide_eq_true (Nat.lt_of_not_le hbelow)⟩⟩

/-- When a signal does not fit COMPOSE finds an overrun (R217). -/
theorem any_overrun_of_not_noOverrun {r : Word32} {b : List BatchEntry} {first : BatchEntry}
    (h : b[0]? = some first) (hover : ¬ NoOverrun r b) :
    (placements r first.ts b).any (fun p => totalOf r b < placedEnd p) = true := by
  simp only [NoOverrun, Classical.not_forall] at hover
  obtain ⟨k, hk, hend⟩ := hover
  have hget := List.getElem?_eq_getElem hk
  rw [List.any_eq_true, placements_eq r h]
  refine ⟨_, List.mem_mapIdx.2 ⟨k, hk, rfl⟩, decide_eq_true ?_⟩
  rw [placedEnd_eq r hget]
  exact Nat.lt_of_not_le hend

open Classical in
/-- COMPOSE, with its errors in the order of R224. -/
theorem exec_compose_eq (r g : Word32) (s : State) : exec (.compose r g) s = .next (
    if s.batch = [] then abortedWith 7 s
    else if ¬ Ordered r s.batch then abortedWith 8 s
    else if ¬ NoOverrun r s.batch then abortedWith 9 s
    else if s.params.outCap < (framedLength g.toNat (trimmedTimeline r s.batch) + 7) / 8 then
      abortedWith 10 s
    else completedWith (countResult (framedLength g.toNat (trimmedTimeline r s.batch)))
      (countResult (trimmedTimeline r s.batch).length)
      (pack (frameSamples g.toNat (trimmedTimeline r s.batch))) s) := by
  cases hbatch : s.batch with
  | nil =>
    rw [exec, execCompose, hbatch, if_pos rfl]
    exact raise_eq _ s
  | cons first rest =>
    have hfirst : (first :: rest)[0]? = some first := rfl
    rw [if_neg (List.cons_ne_nil first rest)]
    by_cases hord : Ordered r (first :: rest)
    · rw [if_neg (not_not.2 hord)]
      by_cases hfits : NoOverrun r (first :: rest)
      · rw [if_neg (not_not.2 hfits)]
        refine exec_compose_of_fits g hbatch (hbatch ▸ hord) (hbatch ▸ hfits) ?_
        rw [hbatch, placements_eq r hfirst]
        rfl
      · have hts := not_any_below_first hfirst hord
        have hover := any_overrun_of_not_noOverrun hfirst hfits
        rw [if_pos hfits, exec, execCompose, hbatch]
        simp only [if_neg hts, timelineLength_placements r hfirst, hover, if_true]
        exact raise_eq _ s
    · have hts := any_below_first_of_not_ordered hfirst hord
      rw [if_pos hord, exec, execCompose, hbatch]
      simp only [if_pos hts]
      exact raise_eq _ s

/-- Settles O50: the first three of COMPOSE's errors; an empty batch is ordered. -/
theorem composeRefusesEmptyUnorderedOverrun : Obligations.ComposeRefusesEmptyUnorderedOverrun := by
  intro r g s
  rw [exec_compose_eq]
  refine ⟨fun hempty => by rw [if_pos hempty], fun hord => ?_, fun hne hord hfits => ?_⟩
  · have hne : s.batch ≠ [] := by
      intro hempty
      rw [hempty] at hord
      exact hord fun _ e he => absurd he List.not_mem_nil
    rw [if_neg hne, if_pos hord]
  · rw [if_neg hne, if_neg (not_not.2 hord), if_pos hfits]

theorem isTrimmed_trimmedTimeline (r : Word32) {b : List BatchEntry} (h : b ≠ []) :
    IsTrimmed (composeTimeline (totalOf r b) (placedBatch r b)) (trimmedTimeline r b) :=
  isTrimmed_trim (low_mem_composeTimeline r h _)

theorem framedLength_eq (g : Nat) (u : List Sample) : framedLength g u = g + 20000 + u.length := rfl

/-- Settles O51: `composeTimeline` is the timeline and `trim` its trimmed form; both counts fit. -/
theorem composeByRule : Obligations.ComposeByRule := by
  intro r g s hp hne hord hfits
  refine ⟨_, _, isTimeline_composeTimeline hfits, isTrimmed_trimmedTimeline r hne, ?_⟩
  rw [exec_compose_eq, if_neg hne, if_neg (not_not.2 hord), if_neg (not_not.2 hfits), framedLength_eq]
  split
  · rfl
  · next hcap =>
    obtain ⟨hlt, hcount⟩ := countResult_of_fits hp hcap
    rw [hcount, countResult_of_lt _ (by omega)]
    rfl

/-- A command that raised an error has not ended OK (R241, R247). -/
theorem status_abortedWith_ne_zero (e : ErrorCode) (s : State) :
    (abortedWith (errorIndex e) s).status ≠ 0x00 := fun h =>
  not_completes_abortedWith e s (h ▸ by decide)

/-- A COMPOSE that ends OK has delivered the framed trimmed timeline of a batch that is not empty. -/
theorem compose_completes {r g : Word32} {s t : State} (h : exec (.compose r g) s = .next t)
    (hok : t.status = 0x00) :
    s.batch ≠ [] ∧
    ¬ s.params.outCap < (framedLength g.toNat (trimmedTimeline r s.batch) + 7) / 8 ∧
    t = completedWith (countResult (framedLength g.toNat (trimmedTimeline r s.batch)))
      (countResult (trimmedTimeline r s.batch).length)
      (pack (frameSamples g.toNat (trimmedTimeline r s.batch))) s := by
  rw [exec_compose_eq, Host.Outcome.next.injEq] at h
  subst h
  split_ifs at hok ⊢ with hempty hord hfits hcap
  · exact absurd hok (status_abortedWith_ne_zero .emptyBatch s)
  · exact absurd hok (status_abortedWith_ne_zero .capacityError s)
  · exact ⟨hempty, hcap, rfl⟩
  · exact absurd hok (status_abortedWith_ne_zero .overrun s)
  · exact absurd hok (status_abortedWith_ne_zero .offsetOrder s)

/-! Timestamps count only relative to the first (R214). -/

theorem getElem?_shifted_batch (c : Nat) (s : State) (i : Nat) :
    (shifted c s).batch[i]? = s.batch[i]?.map fun e => { e with ts := e.ts + BitVec.ofNat 32 c } :=
  List.getElem?_map

theorem length_shifted_batch (c : Nat) (s : State) : (shifted c s).batch.length = s.batch.length :=
  List.length_map _

theorem signalLength_shifted (c : Nat) (s : State) (i : Nat) :
    signalLength (shifted c s).batch i = signalLength s.batch i := by
  rw [signalLength, signalLength, getElem?_shifted_batch, Option.map_map]
  rfl

section
variable {c : Nat} {s : State} (hc : ∀ e ∈ s.batch, e.ts.toNat + c < 2 ^ 32)
include hc

theorem toNat_shifted_ts {e : BatchEntry} (he : e ∈ s.batch) :
    (e.ts + BitVec.ofNat 32 c).toNat = e.ts.toNat + c := by
  have hlt := hc e he
  rw [BitVec.toNat_add, BitVec.toNat_ofNat, Nat.mod_eq_of_lt (by omega : c < 2 ^ 32), Nat.mod_eq_of_lt hlt]

/-- The timestamp of an entry after the shift. -/
theorem getElem?_shifted_ts (i : Nat) :
    ((shifted c s).batch[i]?.map fun e => e.ts.toNat) = s.batch[i]?.map fun e => e.ts.toNat + c := by
  rw [getElem?_shifted_batch, Option.map_map]
  exact Option.map_congr fun e he => toNat_shifted_ts hc (List.mem_of_getElem? he)

theorem offsetOf_shifted {i : Nat} (hi : i < s.batch.length) :
    offsetOf 0 (shifted c s).batch i = offsetOf 0 s.batch i := by
  rw [offsetOf, offsetOf, if_pos rfl, if_pos rfl, getElem?_shifted_ts hc, getElem?_shifted_ts hc,
    List.getElem?_eq_getElem hi, List.getElem?_eq_getElem (Nat.zero_lt_of_lt hi)]
  exact Nat.add_sub_add_right _ _ _

theorem ordered_shifted : Ordered 0 (shifted c s).batch ↔ Ordered 0 s.batch := by
  cases hbatch : s.batch with
  | nil => simp [Ordered, shifted, hbatch]
  | cons first rest =>
    have hfirst := getElem?_shifted_ts hc 0
    rw [hbatch] at hfirst
    rw [Ordered, Ordered, hfirst, shifted, hbatch]
    simp only [List.getElem?_cons_zero, Option.map_some, Option.getD_some, forall_const,
      List.forall_mem_map]
    refine forall₂_congr fun e he => ?_
    rw [toNat_shifted_ts hc (hbatch ▸ he), Nat.add_le_add_iff_right]

theorem totalOf_shifted (hne : s.batch ≠ []) : totalOf 0 (shifted c s).batch = totalOf 0 s.batch := by
  have hlast : s.batch.length - 1 < s.batch.length := Nat.sub_one_lt_of_lt (List.length_pos_of_ne_nil hne)
  rw [totalOf, totalOf, if_pos rfl, if_pos rfl, length_shifted_batch, offsetOf_shifted hc hlast,
    signalLength_shifted]

theorem noOverrun_shifted : NoOverrun 0 (shifted c s).batch ↔ NoOverrun 0 s.batch := by
  rw [NoOverrun, NoOverrun, length_shifted_batch]
  refine forall₂_congr fun i hi => ?_
  rw [offsetOf_shifted hc hi, signalLength_shifted,
    totalOf_shifted hc (List.ne_nil_of_length_pos (Nat.zero_lt_of_lt hi))]

theorem placedBatch_shifted : placedBatch 0 (shifted c s).batch = placedBatch 0 s.batch := by
  refine List.ext_getElem? fun i => ?_
  rw [placedBatch, placedBatch, List.getElem?_mapIdx, List.getElem?_mapIdx, getElem?_shifted_batch,
    Option.map_map]
  refine Option.map_congr fun e he => ?_
  rw [Function.comp, offsetOf_shifted hc (List.getElem?_eq_some_iff.1 he).1]

theorem trimmedTimeline_shifted (hne : s.batch ≠ []) :
    trimmedTimeline 0 (shifted c s).batch = trimmedTimeline 0 s.batch := by
  rw [trimmedTimeline, trimmedTimeline, placedBatch_shifted hc, totalOf_shifted hc hne]

end

/-- Settles O55: offsets are differences of timestamps and lengths do not depend on them, so both batches
have the same errors and the same trimmed timeline. -/
theorem captureTimestampsMatterOnlyRelatively : Obligations.CaptureTimestampsMatterOnlyRelatively := by
  intro c g s t t' hc ht ht'
  have hempty : (shifted c s).batch = [] ↔ s.batch = [] := List.map_eq_nil_iff
  rw [exec_compose_eq, Host.Outcome.next.injEq] at ht ht'
  subst ht ht'
  by_cases hne : s.batch = []
  · rw [if_pos hne, if_pos (hempty.2 hne)]
    rfl
  · rw [if_neg hne, if_neg (hempty.not.2 hne), trimmedTimeline_shifted hc hne, ordered_shifted hc,
      noOverrun_shifted hc, show (shifted c s).params = s.params from rfl]
    split_ifs <;> rfl

/-! The framed output. -/

/-- The trimmed timeline begins with LOW (R220). -/
theorem exists_trimmedTimeline_eq_cons (r : Word32) {b : List BatchEntry} (h : b ≠ []) :
    ∃ rest, trimmedTimeline r b = .low :: rest := by
  obtain ⟨-, hhead, -⟩ := isTrimmed_trimmedTimeline r h
  exact List.head?_eq_some_iff.1 hhead

theorem frameSamples_eq (g : Nat) (u : List Sample) :
    frameSamples g u = high (g + 10000) ++ (u ++ high 10000) := by
  rw [frameSamples, high_append_high, List.append_assoc]
  rfl

/-- Settles O53: the trimmed timeline is the same for both numbers of glitch samples. -/
theorem glitchAddsIdleSamplesInFront : Obligations.GlitchAddsIdleSamplesInFront := by
  intro r g s t₀ t hp h₀ h hok₀ hok
  obtain ⟨-, hcap₀, rfl⟩ := compose_completes h₀ hok₀
  obtain ⟨-, hcap, rfl⟩ := compose_completes h hok
  refine ⟨?_, by rw [completedWith_res1, completedWith_res1], ?_⟩
  · have hcount := toNat_countResult_of_fits hp hcap
    have hcount₀ := toNat_countResult_of_fits hp hcap₀
    rw [completedWith_res0, completedWith_res0, hcount, hcount₀, framedLength_eq, framedLength_eq,
      show (0 : Word32).toNat = 0 from rfl]
    omega
  · rw [completedWith_out, unpackUndoesPack, frameSamples_eq, List.append_assoc]
    exact ⟨_, rfl⟩

/-- A sample of a guard is not LOW, and neither is one past the end. -/
theorem getElem?_high_ne_low (n k : Nat) : (high n)[k]? ≠ some .low := by
  rw [high, List.getElem?_replicate]
  split <;> simp

/-- The framed sequence, unpacked from OUT: the padding of the last byte lengthens the closing guard
(R227). -/
theorem exists_unpack_frameSamples (g : Nat) (u : List Sample) :
    ∃ pad, unpack (pack (frameSamples g u)) = high (g + 10000) ++ (u ++ high pad ++ high 10000) := by
  rw [unpackUndoesPack, frameSamples_eq]
  exact ⟨_, by rw [List.append_assoc, List.append_assoc, List.append_assoc, high_append_high,
    high_append_high, Nat.add_comm 10000]⟩

/-- The bytes that lie in the leading guard (R279). -/
theorem getElem?_pack_frameSamples_front (g : Nat) (u : List Sample) {j : Nat} (hj : j < (g + 10000) / 8) :
    (pack (frameSamples g u))[j]? = some 0xFF := by
  have hlen : j < (pack (frameSamples g u)).length := by
    rw [pack_length, frameSamples_length, framedLength_eq, ceilDiv8]
    omega
  have hget := List.getElem?_eq_getElem hlen
  rw [hget, Option.some.injEq]
  refine pack_byte_of_no_low hget fun k _ hk => ?_
  rw [frameSamples_eq, List.getElem?_append_left (by rw [high_length]; omega)]
  exact getElem?_high_ne_low _ _

/-- The last 1250 bytes lie in the closing guard (R279). -/
theorem pack_frameSamples_back (g : Nat) (u : List Sample) {j : Nat} {b : Byte}
    (hj : (pack (frameSamples g u)).length ≤ j + 1250) (hb : (pack (frameSamples g u))[j]? = some b) :
    b = 0xFF := by
  rw [pack_length, frameSamples_length, framedLength_eq, ceilDiv8] at hj
  refine pack_byte_of_no_low hb fun k hk _ => ?_
  rw [frameSamples_eq, ← List.append_assoc,
    List.getElem?_append_right (by rw [List.length_append, high_length]; omega)]
  exact getElem?_high_ne_low _ _

/-- Settles O56: the framed sequence is two guards around a sequence that begins with LOW. -/
theorem composedOutputIsGuarded : Obligations.ComposedOutputIsGuarded := by
  intro r g s t h hok
  obtain ⟨hne, -, rfl⟩ := compose_completes h hok
  obtain ⟨rest, hrest⟩ := exists_trimmedTimeline_eq_cons r hne
  obtain ⟨pad, hunpack⟩ := exists_unpack_frameSamples g.toNat (trimmedTimeline r s.batch)
  simp only [completedWith_out]
  refine ⟨?_, ?_, fun j => getElem?_pack_frameSamples_front _ _, fun j b => pack_frameSamples_back _ _⟩
  · rw [hunpack, hrest]
    exact ⟨_, rfl⟩
  · rw [hunpack, ← List.append_assoc]
    exact ⟨_, rfl⟩

/-! SINGLE. -/

/-- The signal of a message whose last bit is 1, without its idle ends: the last LOW run ends 21 samples
before the trailing idle of 88 (R197 to R200). -/
theorem exists_isTrimmed_encodeLine {m : Memory} (h : msgBit m (43 + 10 * dataLength m) = true) :
    ∃ u, encodeLine m = high 170 ++ u ++ high 109 ∧ IsTrimmed (encodeLine m) u := by
  have hbits : messageBits m =
      (List.range (43 + 10 * dataLength m)).map (msgBit m) ++ [true] := by
    rw [messageBits, show bitLengthOfMessage (dataLength m) = 43 + 10 * dataLength m + 1 from
      Nat.add_right_comm 43 1 _, List.range_succ, List.map_append, List.map_singleton, h]
  have hline : encodeLine m = high 170 ++ (low 20 ++
      ((List.range (43 + 10 * dataLength m)).map (msgBit m)).flatMap lineCode ++ low 20) ++ high 109 := by
    rw [encodeLine, hbits, List.flatMap_append, List.flatMap_singleton, lineCode_eq,
      show high 109 = high 21 ++ high 88 from (high_append_high 21 88).symm]
    simp only [List.append_assoc]
    rfl
  refine ⟨_, hline, ⟨170, 109, hline⟩, rfl, ?_⟩
  rw [List.getLast?_append]
  rfl

/-- A batch of one entry in capture mode fits its timeline, which is its signal (R214, R216). -/
theorem trimmedTimeline_single (ts : Word32) (m : Memory) :
    Ordered 0 [⟨ts, m⟩] ∧ NoOverrun 0 [⟨ts, m⟩] ∧ trimmedTimeline 0 [⟨ts, m⟩] = trim (encodeLine m) := by
  have hoff : offsetOf 0 [⟨ts, m⟩] 0 = 0 := Nat.sub_self _
  have htotal : totalOf 0 [⟨ts, m⟩] = (encodeLine m).length := by
    rw [encodeLine_length]
    exact (congrArg (· + _) hoff).trans (Nat.zero_add _)
  have hplaced : placedBatch 0 [⟨ts, m⟩] = [⟨0, encodeLine m⟩] := by
    rw [placedBatch, List.mapIdx_singleton, hoff]
  refine ⟨fun _ e he => ?_, fun i hi => ?_, ?_⟩
  · rw [List.mem_singleton.1 he]
    exact Nat.le_refl _
  · obtain rfl : i = 0 := Nat.lt_one_iff.1 hi
    exact Nat.le_refl _
  · have hidle : (high (encodeLine m).length).drop (placedEnd ⟨0, encodeLine m⟩) = [] :=
      List.drop_of_length_le (by rw [high_length, placedEnd, Nat.zero_add])
    rw [trimmedTimeline, htotal, hplaced, composeTimeline, List.foldl_cons, List.foldl_nil, overwrite, hidle,
      List.append_nil]
    rfl

theorem runAll_cons {i : Instr} {rest : List Instr} {s t : State} (h : exec i s = .next t) :
    runAll (i :: rest) s = runAll rest t := by
  rw [runAll, h]

/-- BATCH_APPEND of a held message to a batch that is not full (R211). -/
theorem exec_batchAppend (ts : Word32) {s : State} (hvalid : s.msgValid = true)
    (hroom : s.batch.length ≠ s.params.maxBatch) : ∃ n, exec (.batchAppend ts) s =
      .next (completedWith n 0 [] { s with batch := s.batch ++ [⟨ts, s.msg⟩] }) := by
  obtain ⟨n, -, happend⟩ := batchAppendByRule ts s
  rw [if_neg (show ¬ s.msgValid = false by simp [hvalid]), if_neg hroom] at happend
  exact ⟨n, happend⟩

/-- What the first two commands of SINGLE leave: the held message alone in BATCH (R88, R210, R211). -/
theorem runAll_pseudoSingle {s : State} (hp : s.params.Legal) (hvalid : s.msgValid = true) :
    ∃ s₂ : State, s₂.batch = [⟨0, s.msg⟩] ∧ s₂.params = s.params ∧
      runAll pseudoSingle s = runAll [.compose 0 0] s₂ := by
  obtain ⟨-, hbatch, -, -⟩ := hp
  obtain ⟨n, happend⟩ := exec_batchAppend 0 (s := completedWith 0 0 [] { s with batch := [] }) hvalid
    (Nat.ne_of_lt hbatch)
  refine ⟨_, ?_, ?_, (runAll_cons (batchClearByRule s)).trans (runAll_cons happend)⟩ <;> rfl

/-- Settles O58: the timeline is the line signal, and COMPOSE delivers its trimmed form. -/
theorem singleMessageModeLength : Obligations.SingleMessageModeLength := by
  intro s n hp hvalid hn hlast hcap
  obtain rfl : n = 44 + 10 * dataLength s.msg := hn
  obtain ⟨s₂, hbatch, hparams, hrun⟩ := runAll_pseudoSingle hp hvalid
  obtain ⟨u, hline, htrim⟩ := exists_isTrimmed_encodeLine (m := s.msg)
    (by rwa [show 44 + 10 * dataLength s.msg - 1 = 43 + 10 * dataLength s.msg by omega] at hlast)
  obtain ⟨hord, hfits, htimeline⟩ := trimmedTimeline_single 0 s.msg
  rw [trim_eq_of_isTrimmed htrim] at htimeline
  have hu : u.length = 41 * (44 + 10 * dataLength s.msg) - 1 := by
    have hlen := encodeLine_length s.msg
    rw [hline, List.length_append, List.length_append, high_length, high_length] at hlen
    omega
  have hframed : framedLength 0 u = 41 * (44 + 10 * dataLength s.msg) - 1 + 20000 := by
    rw [framedLength_eq, hu, Nat.zero_add, Nat.add_comm]
  have hroom : ¬ s.params.outCap < (framedLength 0 u + 7) / 8 := by
    rw [hframed]
    exact Nat.not_lt.2 hcap
  obtain ⟨hlt, hcount⟩ := countResult_of_fits hp hroom
  have hcompose : exec (.compose 0 0) s₂ = .next (completedWith (countResult (framedLength 0 u))
      (countResult u.length) (pack (frameSamples 0 u)) s₂) := by
    rw [exec_compose_eq, hbatch, hparams, htimeline, if_neg (List.cons_ne_nil _ _), if_neg (not_not.2 hord),
      if_neg (not_not.2 hfits), show (0 : Word32).toNat = 0 from rfl, if_neg hroom]
  refine ⟨_, u, hrun.trans (runAll_cons hcompose), rfl, hbatch, ?_, ?_, hline, rfl⟩
  · rw [completedWith_res1, ← hu, countResult_of_lt _ (by omega)]
  · rw [completedWith_res0, hcount, hframed]

end Sys2Proof.Machine
end

section
/-! The status codes (R241), how a command ends (R247, R248), and what a step answers (R240, R261). -/
namespace Sys2Proof.Machine

/-! The codes. -/

theorem toNat_statusByte_error (e : ErrorCode) :
    (statusByte (.error e)).toNat = 0x10 + errorIndex e := by
  cases e <;> rfl

/-- The errors in the order of their codes (R241). -/
def errorsByCode : List ErrorCode :=
  [.formatError, .rangeError, .decodeError, .bufferBoundsError, .layoutError, .noMessage, .batchFull,
    .emptyBatch, .offsetOrder, .overrun, .capacityError, .illegalCommand]

theorem getElem?_errorsByCode (e : ErrorCode) : errorsByCode[errorIndex e]? = some e := by
  cases e <;> rfl

theorem errorIndex_injective : Function.Injective errorIndex := fun e e' h =>
  Option.some.inj (by rw [← getElem?_errorsByCode e, h, getElem?_errorsByCode e'])

/-- The code of an error is no other status' code (R241). -/
theorem eq_error_of_statusByte_eq {code : StatusCode} {e : ErrorCode}
    (h : statusByte code = statusByte (.error e)) : code = .error e := by
  have hnat : (statusByte code).toNat = 0x10 + errorIndex e := by rw [h, toNat_statusByte_error]
  cases code with
  | ok => exact absurd hnat (by simp [statusByte]; omega)
  | validationWarning => exact absurd hnat (by simp [statusByte]; omega)
  | error e' =>
    rw [toNat_statusByte_error, Nat.add_left_cancel_iff] at hnat
    rw [errorIndex_injective hnat]

theorem abortedWith_status (e : ErrorCode) (s : State) :
    (abortedWith (errorIndex e) s).status = statusByte (.error e) := rfl

/-! How a command ends. -/

/-- A command aborts, or it completes with OK or ValidationWarning (R241, R246, R247). -/
theorem Ends.aborts_or_completes {i : Instr} {s t : State} (h : Ends s i t) :
    (∃ e, t = abortedWith (errorIndex e) s) ∨ t.status = 0x00 ∨ t.status = 0x01 := by
  cases h with
  | aborted _ e => exact .inl ⟨e, rfl⟩
  | validated => exact .inr (judgedWith_status _ _)
  | decoded => exact .inr (judgedWith_status _ _)
  | answered => exact .inr (.inl rfl)
  | encoded => exact .inr (.inl rfl)
  | cleared => exact .inr (.inl rfl)
  | appended => exact .inr (.inl rfl)

theorem runCommand_aborts_or_completes {c : Command} {s t : State} (h : runCommand c s = .next t) :
    (∃ e, t = abortedWith (errorIndex e) s) ∨ t.status = 0x00 ∨ t.status = 0x01 := by
  obtain ⟨i, -, hends⟩ | ht := runCommand_cases c s t h
  · exact hends.aborts_or_completes
  · exact .inl ⟨.illegalCommand, ht⟩

/-- Settles O12: the table row by row; a command ends with an error's code, OK or ValidationWarning. -/
theorem statusHoldsOnlyListedCodes : Obligations.StatusHoldsOnlyListedCodes := by
  refine ⟨rfl, rfl, rfl, rfl, rfl, rfl, rfl, rfl, rfl, rfl, rfl, rfl, rfl, rfl, ?_, rfl, rfl, fun e => ?_⟩
  · intro c s t hrun
    obtain ⟨e, rfl⟩ | hok | hwarning := runCommand_aborts_or_completes hrun
    · exact statusByte_error_mem e
    · rw [hok]
      decide
    · rw [hwarning]
      decide
  · rw [toNat_statusByte_error, Nat.add_sub_cancel_left]
    rfl

/-- Settles O10: a command that does not abort has a status below the error codes. -/
theorem failedCommandLeavesStateAsItWas : Obligations.FailedCommandLeavesStateAsItWas := by
  intro c s t hrun hstatus
  obtain ⟨e, rfl⟩ | hok | hwarning := runCommand_aborts_or_completes hrun
  · rw [abortedWith_status, toNat_statusByte_error, Nat.add_sub_cancel_left]
  · exact absurd hstatus (by rw [hok]; decide)
  · exact absurd hstatus (by rw [hwarning]; decide)

/-! The sticky bits. -/

/-- The ERR_STICKY bit of a STATUS byte, as R248 gives it. -/
def stickyBitOf (status : BitVec 8) : BitVec 16 :=
  if 0x10 ≤ status.toNat then 1#16 <<< (status.toNat - 0x10)
  else if status = 0x01 then 0x8000#16 else 0#16

/-- ERR_STICKY gains exactly the bit of the status (R248). -/
def GainsStickyBit (s t : State) : Prop := t.errSticky = s.errSticky ||| stickyBitOf t.status

theorem gainsStickyBit_abortedWith (e : ErrorCode) (s : State) :
    GainsStickyBit s (abortedWith (errorIndex e) s) := by
  rw [GainsStickyBit, abortedWith_status, stickyBitOf, toNat_statusByte_error,
    if_pos (Nat.le_add_right _ _), Nat.add_sub_cancel_left]
  rfl

theorem gainsStickyBit_completedWith (r0 r1 : Word32) (o : List Byte) (s : State) :
    GainsStickyBit s (completedWith r0 r1 o s) := (BitVec.or_zero).symm

theorem gainsStickyBit_judgedWith (f : BitVec 68) (s : State) : GainsStickyBit s (judgedWith f s) := by
  by_cases hf : f = 0
  · simp only [GainsStickyBit, judgedWith, if_pos hf]
    exact BitVec.or_zero.symm
  · simp only [GainsStickyBit, judgedWith, if_neg hf]
    rfl

theorem Ends.gainsStickyBit {i : Instr} {s t : State} (h : Ends s i t) : GainsStickyBit s t := by
  cases h with
  | aborted _ e => exact gainsStickyBit_abortedWith e s
  | answered => exact gainsStickyBit_completedWith _ _ _ s
  | validated => exact gainsStickyBit_judgedWith _ s
  | encoded => exact gainsStickyBit_completedWith _ _ _ (s.commitMessage _)
  | decoded => exact gainsStickyBit_judgedWith _ (s.commitMessage _)
  | cleared => exact gainsStickyBit_completedWith _ _ _ (s.setBatch [])
  | appended => exact gainsStickyBit_completedWith _ _ _ (s.setBatch _)

theorem runCommand_gainsStickyBit {c : Command} {s t : State} (h : runCommand c s = .next t) :
    GainsStickyBit s t := by
  obtain ⟨i, -, hends⟩ | rfl := runCommand_cases c s t h
  · exact hends.gainsStickyBit
  · exact gainsStickyBit_abortedWith .illegalCommand s

theorem step_of_reset {s : State} {rest : List HostEvent} (h : s.pending = .reset :: rest) :
    step s = .next (takeReset (s.setPending rest)) := by
  rw [step, h]

/-- Settles O11: `Ends.gainsStickyBit` for a command, and the reset event clears the register. -/
theorem stickyBitsAccumulateUntilReset : Obligations.StickyBitsAccumulateUntilReset := by
  refine ⟨fun c s t hrun => runCommand_gainsStickyBit hrun, fun s rest t hp hstep => ?_⟩
  rw [step_of_reset hp, Host.Outcome.next.injEq] at hstep
  rw [← hstep, takeReset_errSticky]

/-! What a step answers. -/

theorem step_of_idle {s : State} (h : s.pending = []) : step s = .next s := by
  rw [step, h, idle_eq]

/-- Settles O3: with no event the step is `idle`. -/
theorem idleStepKeepsEverything : Obligations.IdleStepKeepsEverything := fun _ => step_of_idle

theorem exists_runCommand (c : Command) (s : State) : ∃ t, runCommand c s = .next t := by
  cases hd : decode c with
  | ok i =>
    obtain ⟨t, ht, -⟩ := exec_allowed i s
    exact ⟨t, (runCommand_of_decode c i hd s).trans ht⟩
  | error r =>
    rw [runCommand, hd]
    exact ⟨_, raise_eq .illegalCommand s⟩

/-- Settles O9: one next state for each kind of event, and for none. -/
theorem everyStepAnswersNextState : Obligations.EveryStepAnswersNextState := by
  intro s
  match hp : s.pending with
  | [] => exact ⟨s, step_of_idle hp⟩
  | .reset :: rest => exact ⟨_, step_of_reset hp⟩
  | .command c :: rest =>
    rw [step_of_command hp]
    exact exists_runCommand c _

end Sys2Proof.Machine
end

section
/-! Unassigned opcodes and unused operands (R83, R85, R249). -/
namespace Sys2Proof.Machine

theorem encode_opc_mem_assignedOpcodes (i : Instr) : (encode i).opc ∈ assignedOpcodes := by
  cases i <;> simp [encode, assignedOpcodes]

/-- The decoder refuses a command exactly when its opcode is unassigned (R85). -/
theorem decode_eq_error_iff (c : Command) : (∃ r, decode c = .error r) ↔ c.opc ∉ assignedOpcodes := by
  constructor
  · rintro ⟨r, h⟩
    rw [decode] at h
    split at h <;> cases h
    simp_all [assignedOpcodes]
  · intro hopc
    cases hd : decode c with
    | ok i => exact absurd (opc_of_decode c i hd ▸ encode_opc_mem_assignedOpcodes i) hopc
    | error r => exact ⟨r, rfl⟩

theorem runCommand_of_unassigned {c : Command} (h : c.opc ∉ assignedOpcodes) (s : State) :
    runCommand c s = .next (abortedWith (errorIndex .illegalCommand) s) := by
  obtain ⟨r, hr⟩ := (decode_eq_error_iff c).2 h
  rw [runCommand, hr]
  exact raise_eq .illegalCommand s

/-- The assigned opcodes are the 14 of R83, each a byte of its own. -/
theorem filter_assigned_perm :
    ((List.range 256).filter fun n => BitVec.ofNat 8 n ∈ assignedOpcodes).Perm
      (assignedOpcodes.map BitVec.toNat) := by
  refine (List.perm_ext_iff_of_nodup (List.nodup_range.filter _) (by decide)).2 fun n => ?_
  simp only [List.mem_filter, List.mem_range, decide_eq_true_eq, List.mem_map]
  constructor
  · rintro ⟨hn, hmem⟩
    exact ⟨_, hmem, BitVec.toNat_ofNat n 8 ▸ Nat.mod_eq_of_lt hn⟩
  · rintro ⟨opc, hmem, rfl⟩
    exact ⟨opc.isLt, by rwa [BitVec.ofNat_toNat, BitVec.setWidth_eq]⟩

theorem length_filter_unassigned :
    ((List.range 256).filter fun n => BitVec.ofNat 8 n ∉ assignedOpcodes).length = 242 := by
  have hassigned := filter_assigned_perm.length_eq
  have hsplit := List.length_eq_length_filter_add (l := List.range 256)
    fun n => decide (BitVec.ofNat 8 n ∈ assignedOpcodes)
  have hcount : (assignedOpcodes.map BitVec.toNat).length = 14 := rfl
  have hall : (List.range 256).length = 256 := List.length_range
  simp only [decide_not]
  omega

/-- Commands with one opcode that agree on the operands R83 names for it name one instruction (R249). -/
theorem decode_congr {c d : Command} (hopc : c.opc = d.opc)
    (h0 : c.opc ∈ [0x01#8, 0x02#8, 0x10#8, 0x31#8, 0x32#8] → c.arg0 = d.arg0)
    (h1 : c.opc ∈ [0x01#8, 0x10#8, 0x32#8] → c.arg1 = d.arg1)
    (h234 : c.opc = 0x10#8 → c.arg2 = d.arg2 ∧ c.arg3 = d.arg3 ∧ c.arg4 = d.arg4)
    (hinp : c.opc ∈ [0x10#8, 0x11#8, 0x12#8, 0x33#8] → c.inp = d.inp) : decode c = decode d := by
  rw [decode, decode, ← hopc]
  split
  · next h => rw [h0 (by simp [h]), h1 (by simp [h])]
  · next h => rw [h0 (by simp [h])]
  · next h =>
    obtain ⟨h2, h3, h4⟩ := h234 h
    rw [h0 (by simp [h]), h1 (by simp [h]), h2, h3, h4, hinp (by simp [h])]
  · next h => rw [hinp (by simp [h])]
  · next h => rw [hinp (by simp [h])]
  · rfl
  · rfl
  · rfl
  · rfl
  · rfl
  · rfl
  · next h => rw [h0 (by simp [h])]
  · next h => rw [h0 (by simp [h]), h1 (by simp [h])]
  · next h => rw [hinp (by simp [h])]
  · rfl

/-- Settles O6: the decoder refuses exactly the unassigned opcodes, 14 of the 256 are assigned, and each
row of R83 uses only the operands it names. -/
theorem unassignedOpcodesAndUnusedOperands : Obligations.UnassignedOpcodesAndUnusedOperands :=
  ⟨fun s _ hopc => runCommand_of_unassigned hopc s, length_filter_unassigned, fun _ _ => decode_congr⟩

end Sys2Proof.Machine
end

section
/-! Which command ends with which error (R242, R243), and what ValidationWarning commits (R246). -/
namespace Sys2Proof.Machine

/-! The causes of each error. -/

/-- The opcodes of the commands that read MSG (R243). -/
def readerOpcodes : List Byte := [0x01, 0x13, 0x14, 0x15, 0x16, 0x20, 0x31]

/-- In state `s` the command with opcode `opc` can raise the error: the command column of R242, with R243's
condition for NoMessage and R249's for IllegalCommand. -/
def MayRaise (s : State) (opc : Byte) : ErrorCode → Prop
  | .formatError => opc ∈ [0x10#8, 0x11#8, 0x33#8]
  | .rangeError => opc ∈ [0x10#8, 0x11#8]
  | .decodeError => opc = 0x12
  | .bufferBoundsError => opc = 0x01
  | .layoutError => opc = 0x01
  | .noMessage => s.msgValid = false ∧ opc ∈ readerOpcodes
  | .batchFull => opc = 0x31
  | .emptyBatch => opc = 0x32
  | .offsetOrder => opc = 0x32
  | .overrun => opc = 0x32
  | .capacityError => opc ∈ [0x20#8, 0x32#8, 0x33#8]
  | .illegalCommand => opc ∉ assignedOpcodes

/-- Every error with which `r` can end the command is one it can raise. -/
def RaisesOnlyOwn (s : State) (opc : Byte) (r : Result) : Prop :=
  ∀ t e, r = .next t → t.status = statusByte (.error e) → MayRaise s opc e

section
variable {s : State} {opc : Byte}

theorem raisesOnlyOwn_raise {e : ErrorCode} (h : MayRaise s opc e) : RaisesOnlyOwn s opc (raise e s) := by
  intro t e' hr hstatus
  rw [raise_next] at hr
  rw [hr, abortedWith_status] at hstatus
  cases eq_error_of_statusByte_eq hstatus
  exact h

theorem raisesOnlyOwn_finish {code : StatusCode} (hcode : ∀ e, code ≠ .error e) (r : Response)
    (u : State) : RaisesOnlyOwn s opc (finish code r u) := by
  intro t e hr hstatus
  cases hr
  exact absurd (eq_error_of_statusByte_eq hstatus) (hcode e)

theorem raisesOnlyOwn_finish_ok (r : Response) (u : State) : RaisesOnlyOwn s opc (finish .ok r u) :=
  raisesOnlyOwn_finish (code := .ok) (fun _ => nofun) r u

theorem verdict_ne_error (f : BitVec 68) (e : ErrorCode) : verdict f ≠ .error e := by
  rw [verdict]
  split <;> nofun

theorem raisesOnlyOwn_withMessage (hopc : opc ∈ readerOpcodes) {k : Memory → Result}
    (hk : ∀ m, RaisesOnlyOwn s opc (k m)) : RaisesOnlyOwn s opc (withMessage s k) := by
  rw [withMessage]
  split
  · exact hk s.msg
  · next hv => exact raisesOnlyOwn_raise ⟨Bool.eq_false_iff.2 hv, hopc⟩

theorem raisesOnlyOwn_deliverSamples (h : MayRaise s opc .capacityError) (x : List Sample) :
    RaisesOnlyOwn s opc (deliverSamples x s) := by
  rw [deliverSamples]
  split
  · exact raisesOnlyOwn_raise h
  · exact raisesOnlyOwn_finish_ok _ s

theorem raisesOnlyOwn_buildMessage {operands : Except ErrorCode Supplied}
    (h : ∀ e, operands = .error e → MayRaise s opc e) : RaisesOnlyOwn s opc (buildMessage operands s) := by
  cases operands with
  | error e => exact raisesOnlyOwn_raise (h e rfl)
  | ok f => exact raisesOnlyOwn_finish_ok _ _

end

theorem parseFields_error {mask b m a c : Word32} {inp : List Byte} {e : ErrorCode}
    (h : parseFields mask b m a c inp = .error e) : e = .formatError ∨ e = .rangeError := by
  rw [parseFields_eq] at h
  split_ifs at h <;> cases h
  · exact .inl rfl
  · exact .inr rfl

theorem parseTokens_error {inp : List Byte} {e : ErrorCode} (h : parseTokens inp = .error e) :
    e = .formatError ∨ e = .rangeError := by
  rw [parseTokens_eq inp _ rfl] at h
  split_ifs at h <;> cases h
  · exact .inl rfl
  · exact .inl rfl
  · exact .inr rfl
  · exact .inr rfl

theorem parseSamples_error {inp : List Byte} {e : ErrorCode} (h : parseSamples inp = .error e) :
    e = .formatError := by
  rw [parseSamples_eq] at h
  split_ifs at h
  cases h
  rfl

/-! The commands whose errors are not those of one shared operation alone. -/

theorem raisesOnlyOwn_fieldRead (offset length : Word32) (s : State) :
    RaisesOnlyOwn s 0x01 (execFieldRead offset length s) := by
  simp only [execFieldRead]
  refine raisesOnlyOwn_withMessage (by decide) fun m => ?_
  split
  · by_cases hcap : s.params.msgCap < windowByte ⟨offset.toNat, length.toNat⟩ + 4
    · rw [readField_outside _ _ _ hcap]
      exact raisesOnlyOwn_raise rfl
    · rw [readField_inside _ _ _ (Nat.le_of_not_lt hcap)]
      exact raisesOnlyOwn_finish_ok _ s
  · exact raisesOnlyOwn_raise rfl

theorem raisesOnlyOwn_buildFields (mask b m a c : Word32) (inp : List Byte) (s : State) :
    RaisesOnlyOwn s 0x10 (execBuildFields mask b m a c inp s) := by
  refine raisesOnlyOwn_buildMessage fun e he => ?_
  obtain rfl | rfl := parseFields_error he
  · simp [MayRaise]
  · simp [MayRaise]

theorem raisesOnlyOwn_buildTokens (inp : List Byte) (s : State) :
    RaisesOnlyOwn s 0x11 (execBuildTokens inp s) := by
  refine raisesOnlyOwn_buildMessage fun e he => ?_
  obtain rfl | rfl := parseTokens_error he
  · simp [MayRaise]
  · simp [MayRaise]

theorem raisesOnlyOwn_decodeBytes (inp : List Byte) (s : State) :
    RaisesOnlyOwn s 0x12 (execDecodeBytes inp s) := by
  simp only [execDecodeBytes]
  split_ifs
  · exact raisesOnlyOwn_raise rfl
  · exact raisesOnlyOwn_raise rfl
  · exact raisesOnlyOwn_raise rfl
  · exact raisesOnlyOwn_raise rfl
  · exact raisesOnlyOwn_finish (verdict_ne_error _) _ _

theorem raisesOnlyOwn_batchAppend (ts : Word32) (s : State) :
    RaisesOnlyOwn s 0x31 (execBatchAppend ts s) := by
  refine raisesOnlyOwn_withMessage (by decide) fun m => ?_
  split
  · exact raisesOnlyOwn_raise rfl
  · exact raisesOnlyOwn_finish_ok _ _

theorem raisesOnlyOwn_compose (interval glitch : Word32) (s : State) :
    RaisesOnlyOwn s 0x32 (execCompose interval glitch s) := by
  simp only [execCompose]
  split
  · exact raisesOnlyOwn_raise rfl
  · split_ifs
    · exact raisesOnlyOwn_raise rfl
    · exact raisesOnlyOwn_raise rfl
    · exact raisesOnlyOwn_raise (by simp [MayRaise])
    · exact raisesOnlyOwn_finish_ok _ s

theorem raisesOnlyOwn_packSamples (inp : List Byte) (s : State) :
    RaisesOnlyOwn s 0x33 (execPackSamples inp s) := by
  rw [execPackSamples]
  split
  · next e he =>
    obtain rfl := parseSamples_error he
    exact raisesOnlyOwn_raise (by simp [MayRaise])
  · exact raisesOnlyOwn_deliverSamples (by simp [MayRaise]) _

theorem exec_raisesOnlyOwn (i : Instr) (s : State) : RaisesOnlyOwn s (encode i).opc (exec i s) := by
  cases i with
  | fieldRead offset length => exact raisesOnlyOwn_fieldRead offset length s
  | parity => exact raisesOnlyOwn_finish_ok _ s
  | buildFields mask b m a c inp => exact raisesOnlyOwn_buildFields mask b m a c inp s
  | buildTokens inp => exact raisesOnlyOwn_buildTokens inp s
  | decodeBytes inp => exact raisesOnlyOwn_decodeBytes inp s
  | validate =>
    rw [exec, execValidate]
    exact raisesOnlyOwn_withMessage (by decide) fun _ => raisesOnlyOwn_finish (verdict_ne_error _) _ s
  | asBytes =>
    rw [exec, execAsBytes]
    exact raisesOnlyOwn_withMessage (by decide) fun _ => raisesOnlyOwn_finish_ok _ s
  | display =>
    rw [exec, execDisplay]
    exact raisesOnlyOwn_withMessage (by decide) fun _ => raisesOnlyOwn_finish_ok _ s
  | decodeView =>
    rw [exec, execDecodeView]
    exact raisesOnlyOwn_withMessage (by decide) fun _ => raisesOnlyOwn_finish_ok _ s
  | encodeSignal =>
    rw [exec, execEncodeSignal]
    exact raisesOnlyOwn_withMessage (by decide) fun _ => raisesOnlyOwn_deliverSamples (.head _) _
  | batchClear => exact raisesOnlyOwn_finish_ok _ _
  | batchAppend ts => exact raisesOnlyOwn_batchAppend ts s
  | compose interval glitch => exact raisesOnlyOwn_compose interval glitch s
  | packSamples inp => exact raisesOnlyOwn_packSamples inp s

theorem runCommand_raisesOnlyOwn (c : Command) (s : State) :
    RaisesOnlyOwn s c.opc (runCommand c s) := by
  cases hd : decode c with
  | ok i =>
    rw [runCommand_of_decode c i hd, opc_of_decode c i hd]
    exact exec_raisesOnlyOwn i s
  | error r =>
    rw [runCommand, hd]
    exact raisesOnlyOwn_raise ((decode_eq_error_iff c).1 ⟨r, hd⟩)

/-- Settles O19: `MayRaise` says R242's command column, error by error. -/
theorem eachErrorComesFromItsCommands : Obligations.EachErrorComesFromItsCommands := by
  intro c s t hrun
  have hcause (e : ErrorCode) : t.status = statusByte (.error e) → MayRaise s c.opc e :=
    runCommand_raisesOnlyOwn c s t e hrun
  exact ⟨hcause .formatError, hcause .rangeError, hcause .decodeError, hcause .bufferBoundsError,
    hcause .layoutError, hcause .batchFull, hcause .emptyBatch, hcause .offsetOrder, hcause .overrun,
    hcause .capacityError, hcause .illegalCommand⟩

/-- Without a message each command that reads MSG aborts with NoMessage, whatever its operands (R243). -/
theorem exec_of_no_message {i : Instr} {s : State} (hi : (encode i).opc ∈ readerOpcodes)
    (hv : s.msgValid = false) : exec i s = .next (abortedWith 5 s) := by
  cases i with
  | fieldRead => rw [exec, execFieldRead, withMessage_invalid s _ hv]
  | validate => rw [exec, execValidate, withMessage_invalid s _ hv]
  | asBytes => rw [exec, execAsBytes, withMessage_invalid s _ hv]
  | display => rw [exec, execDisplay, withMessage_invalid s _ hv]
  | decodeView => rw [exec, execDecodeView, withMessage_invalid s _ hv]
  | encodeSignal => rw [exec, execEncodeSignal, withMessage_invalid s _ hv]
  | batchAppend => rw [exec, execBatchAppend, withMessage_invalid s _ hv]
  | parity | buildFields | buildTokens | decodeBytes | batchClear | compose | packSamples =>
    exact absurd hi (by simp [encode, readerOpcodes])

/-- Settles O18: `withMessage` is the first check of the seven readers, and NoMessage has no other cause. -/
theorem noMessageExactlyWhereMessageIsRead : Obligations.NoMessageExactlyWhereMessageIsRead := by
  refine ⟨fun s o l ts hv => ?_, fun c s t hrun => runCommand_raisesOnlyOwn c s t .noMessage hrun⟩
  have hreads (i : Instr) (hi : (encode i).opc ∈ readerOpcodes) := exec_of_no_message hi hv
  refine ⟨hreads _ ?_, hreads _ ?_, hreads _ ?_, hreads _ ?_, hreads _ ?_, hreads _ ?_, hreads _ ?_⟩ <;>
    simp [encode, readerOpcodes]

/-! ValidationWarning. -/

theorem judgedWith_of_warning {f : BitVec 68} {s : State} (h : (judgedWith f s).status = 0x01) :
    f ≠ 0 ∧ (judgedWith f s).res0 = 0 ∧ (judgedWith f s).errSticky = s.errSticky ||| 0x8000#16 := by
  have hf : f ≠ 0 := by
    rintro rfl
    exact absurd (show (0x00#8) = 0x01#8 from h) (by decide)
  exact ⟨hf, if_neg hf, if_neg hf⟩

/-- How an instruction ends with ValidationWarning: VALIDATE judges the MSG held, DECODE_BYTES the copy it
commits (R146, R148, R246). -/
theorem Ends.of_warning {i : Instr} {s t : State} (h : Ends s i t) (hstatus : t.status = 0x01) :
    (i = .validate ∧ t = judgedWith (findings s.msg) s) ∨
    ∃ inp, i = .decodeBytes inp ∧
      t = judgedWith (findings (Memory.ofBytes inp)) (s.commitMessage (Memory.ofBytes inp)) := by
  cases h with
  | validated => exact .inl ⟨rfl, rfl⟩
  | decoded => exact .inr ⟨_, rfl, rfl⟩
  | aborted _ e => exact absurd (eq_error_of_statusByte_eq (code := .validationWarning) hstatus.symm) nofun
  | answered | encoded | cleared | appended =>
    exact absurd (show (0x00#8) = 0x01#8 from hstatus) (by decide)

theorem inp_of_decode_decodeBytes {c : Command} {inp : List Byte} (h : decode c = .ok (.decodeBytes inp)) :
    c.inp = inp := by
  have hopc : c.opc = 0x12#8 := opc_of_decode c _ h
  simpa [decode, hopc] using h

theorem exists_onEncodePath_of_opc {c : Command} (h : c.opc ∈ [0x10#8, 0x11#8]) :
    ∃ i, decode c = .ok i ∧ OnEncodePath i := by
  obtain hopc | hopc : c.opc = 0x10#8 ∨ c.opc = 0x11#8 := by simpa using h
  · exact ⟨.buildFields c.arg0 c.arg1 c.arg2 c.arg3 c.arg4 c.inp, by simp only [decode, hopc],
      .inl ⟨_, _, _, _, _, _, rfl⟩⟩
  · exact ⟨.buildTokens c.inp, by simp only [decode, hopc], .inr ⟨_, rfl⟩⟩

/-- VALIDATE ends with ValidationWarning only where there is a message (R243). -/
theorem msgValid_of_validate_warning {s t : State} (h : exec .validate s = .next t)
    (hstatus : t.status = 0x01) : s.msgValid = true := by
  by_contra hv
  rw [exec_of_no_message (by decide) (Bool.eq_false_iff.2 hv), Host.Outcome.next.injEq] at h
  rw [← h] at hstatus
  exact absurd (show (0x15#8) = 0x01#8 from hstatus) (by decide)

/-- Settles O15: `Ends.of_warning` for the two commands, and encoded messages have no finding (R152). -/
theorem warningCommitsResultsWithFindings : Obligations.WarningCommitsResultsWithFindings := by
  refine ⟨fun c s t hrun hstatus => ?_, fun c s t hrun hopc hstatus => ?_⟩
  · obtain ⟨i, hd, hends⟩ | rfl := runCommand_cases c s t hrun
    · obtain ⟨rfl, rfl⟩ | ⟨inp, rfl, rfl⟩ := hends.of_warning hstatus
      · obtain ⟨hf, hres0, hsticky⟩ := judgedWith_of_warning hstatus
        rw [runCommand_of_decode c _ hd] at hrun
        have hvalid := msgValid_of_validate_warning hrun hstatus
        exact ⟨hres0, rfl, hf, hvalid, hsticky, .inr ⟨opc_of_decode c _ hd, rfl⟩⟩
      · obtain ⟨hf, hres0, hsticky⟩ := judgedWith_of_warning hstatus
        exact ⟨hres0, rfl, hf, rfl, hsticky, .inl ⟨opc_of_decode c _ hd,
          inp_of_decode_decodeBytes hd ▸ read_ofBytes inp⟩⟩
    · exact absurd hstatus (show ¬ 0x1B#8 = 0x01#8 by decide)
  · obtain ⟨i, hd, hi⟩ := exists_onEncodePath_of_opc hopc
    rw [runCommand_of_decode c i hd] at hrun
    obtain ⟨-, f, hf, hmsg⟩ := encodePath_completes hi hrun (by rw [hstatus]; decide)
    rw [hmsg, hf.findings_encodeFields]

end Sys2Proof.Machine
end

section
/-! The reset event (R270). -/
namespace Sys2Proof.Machine

/-- Settles O2: the step is `takeReset` on the state left, which differs from `s` in its events alone. -/
theorem resetEventRestoresResetValues : Obligations.ResetEventRestoresResetValues := by
  intro s rest hp
  have hread (a : Nat) : (takeReset (s.setPending rest)).msg.read a = 0 := by
    rw [takeReset_msg]
    exact read_nil a
  have hparams : (takeReset (s.setPending rest)).params = s.params := by
    rw [takeReset_params, setPending_params]
  exact ⟨takeReset (s.setPending rest), step_of_reset hp, hread, takeReset_msgValid _, takeReset_batch _,
    takeReset_errSticky _, takeReset_status _, takeReset_res0 _, takeReset_res1 _, takeReset_vfind _,
    takeReset_out _, hparams⟩

end Sys2Proof.Machine
end
